-- ==== Sys2Proof/Word.lean ====
section
/-! DEFINITION. The word types of MMCORE and the plainest bit selection (spec 00_scope.md R13). -/

namespace Sys2Proof

/-- One byte of an HMAC key, message or answer (R14, R68c). -/
abbrev Byte := BitVec 8

/-- One 32-bit word: a command word (R90) or the data of one host access (R62, R63). -/
abbrev Word := BitVec 32

/-- The 256 bits of a value register, a coordinate or a 32-byte string (R6, R20). -/
abbrev Val := BitVec 256

/-- `v[hi:lo]`, both ends included, as an unsigned integer (R13). -/
def bits (c : Word) (hi lo : Nat) : Nat := c.toNat / 2 ^ lo % 2 ^ (hi + 1 - lo)

end Sys2Proof
end

