-- ==== Sys2Proof/Syntax.lean ====
section
/-! DEFINITION. The command set: one constructor per row of spec/opcode_table.json (30_encoding.md R96). Operands stand in
the order f1, f2, f3, f4, immediate. -/

namespace Sys2Proof

/-- The index of a value register `r0` to `r15` (R92). -/
abbrev RegIdx := Fin 16

/-- The index of a point register `p0` to `p7` (R93). -/
abbrev PtIdx := Fin 8

/-- The modulus operand of FNEW and IRED: bit `m` of the word, 0 for `P`, 1 for `N` (R95c). -/
inductive FieldSel where
  | p
  | n
  deriving DecidableEq, Repr

/-- A decoded command (R96). -/
inductive Instr where
  -- move family, 40_move_convert.md
  | nop
  | ldi (rd : RegIdx) (imm16 : BitVec 16)
  | ldc (rd : RegIdx) (idx : BitVec 8)
  | mov (rd ra : RegIdx)
  | clr (rd : RegIdx)
  | pmov (pd pa : PtIdx)
  | pclr (pd : PtIdx)
  -- convert family
  | fnew (rd ra : RegIdx) (m : FieldSel)
  | fint (rd ra : RegIdx)
  | ired (rd ra : RegIdx) (m : FieldSel)
  | icmp (ra rb : RegIdx)
  -- field family, 41_field.md
  | fadd (rd ra rb : RegIdx)
  | fsub (rd ra rb : RegIdx)
  | fmul (rd ra rb : RegIdx)
  | fdiv (rd ra rb : RegIdx)
  | finv (rd ra : RegIdx)
  | fpow (rd ra rb : RegIdx)
  | feq (ra rb : RegIdx)
  -- Montgomery family, 42_montgomery.md
  | mmul (rd ra rb : RegIdx)
  | mto (rd ra : RegIdx)
  | mfrom (rd ra : RegIdx)
  -- point family, 43_point.md
  | pnew (pd : PtIdx) (rx ry : RegIdx)
  | pinf (pd : PtIdx)
  | padd (pd pa pb : PtIdx)
  | pgetx (rd : RegIdx) (pa : PtIdx)
  | pgety (rd : RegIdx) (pa : PtIdx)
  | peq (pa pb : PtIdx)
  | ptest (pa : PtIdx)
  -- secp256k1 specialization, 44_secp256k1_scalar.md
  | pmul (pd : PtIdx) (rk : RegIdx) (pa : PtIdx)
  | pmulg (pd : PtIdx) (rk : RegIdx)
  | fsqrt (rd ra : RegIdx)
  | pdecomp (pd : PtIdx) (rx : RegIdx) (odd : Bool)
  -- ECDSA family, 45_ecdsa.md
  | keyld (rs : RegIdx)
  | keypub (pd : PtIdx)
  | keyclr
  | nonce (rd rz : RegIdx)
  | sign (rr rs rz : RegIdx)
  | verify (rz rr rs : RegIdx) (pq : PtIdx)
  deriving DecidableEq, Repr

end Sys2Proof
end

