-- ==== Sys2Proof/WellFormed.lean ====
section
/-! DEFINITION. The two value tests that make a term a legal command (30_encoding.md R97, R100); every other constraint of
the encoding is in the operand types. -/

namespace Sys2Proof

/-- The constant store has the indices 0 to 11 (R36, R97). -/
def constIndexLegal (idx : BitVec 8) : Bool := decide (idx.toNat ≤ 11)

/-- SIGN has two different destinations (R97, R285). -/
def signDestsLegal (rr rs : RegIdx) : Bool := decide (rr ≠ rs)

/-- The term is a legal command of version 7 (R97, R100). -/
def Instr.wellFormed : Instr → Bool
  | .ldc _ idx => constIndexLegal idx
  | .sign rr rs _ => signDestsLegal rr rs
  | .nop | .ldi _ _ | .mov _ _ | .clr _ | .pmov _ _ | .pclr _ | .fnew _ _ _ | .fint _ _ | .ired _ _ _ | .icmp _ _
  | .fadd _ _ _ | .fsub _ _ _ | .fmul _ _ _ | .fdiv _ _ _ | .finv _ _ | .fpow _ _ _ | .feq _ _
  | .mmul _ _ _ | .mto _ _ | .mfrom _ _
  | .pnew _ _ _ | .pinf _ | .padd _ _ _ | .pgetx _ _ | .pgety _ _ | .peq _ _ | .ptest _
  | .pmul _ _ _ | .pmulg _ _ | .fsqrt _ _ | .pdecomp _ _ _
  | .keyld _ | .keypub _ | .keyclr | .nonce _ _ | .verify _ _ _ _ => true

end Sys2Proof
end

