-- ==== Sys2Proof/Decode.lean ====
section
/-! DEFINITION. The decoder, total on 32-bit words and rejecting by name (30_encoding.md R90 to R100), and after it the
encoder, the word numbering of the opcode table, and the pseudo-commands (R103). -/

namespace Sys2Proof

/-- Why a word is no legal command. The machine reports every one of them as IllegalCommand (R98, R343). -/
inductive DecodeError where
  /-- `c[31:24]` is not in the opcode map (R96, R98). -/
  | unknownOpcode
  /-- A 1 in a bit the format does not use (R94, R97). -/
  | mustBeZero
  /-- A point-register field of 8 or more (R93). -/
  | pointField
  /-- LDC with an index above 11 (R97). -/
  | constIndex
  /-- SIGN with `f1 = f2` (R97, R285). -/
  | sameDestinations
  deriving DecidableEq, Repr

/-! ### Fields of the word (R91 to R93) -/

/-- The value-register field whose lowest bit is `lo` (R92). -/
def regField (c : Word) (lo : Nat) : RegIdx := Fin.ofNat 16 (bits c (lo + 3) lo)

/-- The point-register field whose lowest bit is `lo`; its top bit must be 0 (R93). -/
def ptField (c : Word) (lo : Nat) : Except DecodeError PtIdx :=
  if bits c (lo + 3) lo < 8 then .ok (Fin.ofNat 8 (bits c (lo + 3) lo)) else .error .pointField

/-- The bits `c[hi:lo]` are not used by the format and must be 0 (R94, R97). -/
def unusedBits (c : Word) (hi lo : Nat) : Except DecodeError Unit :=
  if bits c hi lo = 0 then .ok () else .error .mustBeZero

/-- Bit 0 of the word as the modulus operand `m` (R95c). -/
def fieldSelBit (c : Word) : FieldSel := if bits c 0 0 = 0 then .p else .n

/-- Bit 0 of the word as the parity operand `par`: true is odd (R95d). -/
def parityBit (c : Word) : Bool := decide (bits c 0 0 = 1)

/-! ### The formats (R94), by the register files their fields name -/

def formZ (c : Word) (i : Instr) : Except DecodeError Instr := do
  unusedBits c 23 0
  return i

def formR1r (c : Word) (k : RegIdx → Instr) : Except DecodeError Instr := do
  unusedBits c 19 0
  return k (regField c 20)

def formR1p (c : Word) (k : PtIdx → Instr) : Except DecodeError Instr := do
  unusedBits c 19 0
  return k (← ptField c 20)

def formR2rr (c : Word) (k : RegIdx → RegIdx → Instr) : Except DecodeError Instr := do
  unusedBits c 15 0
  return k (regField c 20) (regField c 16)

def formR2pp (c : Word) (k : PtIdx → PtIdx → Instr) : Except DecodeError Instr := do
  unusedBits c 15 0
  let f1 ← ptField c 20
  return k f1 (← ptField c 16)

def formR2rp (c : Word) (k : RegIdx → PtIdx → Instr) : Except DecodeError Instr := do
  unusedBits c 15 0
  return k (regField c 20) (← ptField c 16)

def formR2pr (c : Word) (k : PtIdx → RegIdx → Instr) : Except DecodeError Instr := do
  unusedBits c 15 0
  return k (← ptField c 20) (regField c 16)

def formR2Mrr (c : Word) (k : RegIdx → RegIdx → FieldSel → Instr) : Except DecodeError Instr := do
  unusedBits c 15 1
  return k (regField c 20) (regField c 16) (fieldSelBit c)

def formR2Mpr (c : Word) (k : PtIdx → RegIdx → Bool → Instr) : Except DecodeError Instr := do
  unusedBits c 15 1
  return k (← ptField c 20) (regField c 16) (parityBit c)

def formR3rrr (c : Word) (k : RegIdx → RegIdx → RegIdx → Instr) : Except DecodeError Instr := do
  unusedBits c 11 0
  return k (regField c 20) (regField c 16) (regField c 12)

def formR3prr (c : Word) (k : PtIdx → RegIdx → RegIdx → Instr) : Except DecodeError Instr := do
  unusedBits c 11 0
  return k (← ptField c 20) (regField c 16) (regField c 12)

def formR3prp (c : Word) (k : PtIdx → RegIdx → PtIdx → Instr) : Except DecodeError Instr := do
  unusedBits c 11 0
  let f1 ← ptField c 20
  return k f1 (regField c 16) (← ptField c 12)

def formR3ppp (c : Word) (k : PtIdx → PtIdx → PtIdx → Instr) : Except DecodeError Instr := do
  unusedBits c 11 0
  let f1 ← ptField c 20
  let f2 ← ptField c 16
  return k f1 f2 (← ptField c 12)

def formR4rrrp (c : Word) (k : RegIdx → RegIdx → RegIdx → PtIdx → Instr) : Except DecodeError Instr := do
  unusedBits c 7 0
  return k (regField c 20) (regField c 16) (regField c 12) (← ptField c 8)

/-- LDC, format RC, with its test on the index (R95b, R97). -/
def formRC (c : Word) : Except DecodeError Instr := do
  unusedBits c 19 8
  if constIndexLegal (BitVec.ofNat 8 (bits c 7 0)) then
    return .ldc (regField c 20) (BitVec.ofNat 8 (bits c 7 0))
  else .error .constIndex

/-- LDI, format RI (R95a). -/
def formRI (c : Word) : Except DecodeError Instr := do
  unusedBits c 19 16
  return .ldi (regField c 20) (BitVec.ofNat 16 (bits c 15 0))

/-- SIGN, format R3, with its test on the destinations (R97). -/
def formSign (c : Word) : Except DecodeError Instr := do
  unusedBits c 11 0
  if signDestsLegal (regField c 20) (regField c 16) then
    return .sign (regField c 20) (regField c 16) (regField c 12)
  else .error .sameDestinations

/-- The decoder: look `c[31:24]` up in the opcode map, test the unused bits, the point fields and the two value tests
(R96, R100). -/
def decode (c : Word) : Except DecodeError Instr :=
  match bits c 31 24 with
  | 0x00 => formZ c .nop
  | 0x01 => formRI c
  | 0x02 => formRC c
  | 0x03 => formR2rr c .mov
  | 0x04 => formR1r c .clr
  | 0x05 => formR2pp c .pmov
  | 0x06 => formR1p c .pclr
  | 0x10 => formR2Mrr c .fnew
  | 0x11 => formR2rr c .fint
  | 0x12 => formR2Mrr c .ired
  | 0x13 => formR2rr c .icmp
  | 0x20 => formR3rrr c .fadd
  | 0x21 => formR3rrr c .fsub
  | 0x22 => formR3rrr c .fmul
  | 0x23 => formR3rrr c .fdiv
  | 0x24 => formR2rr c .finv
  | 0x25 => formR3rrr c .fpow
  | 0x26 => formR2rr c .feq
  | 0x30 => formR3rrr c .mmul
  | 0x31 => formR2rr c .mto
  | 0x32 => formR2rr c .mfrom
  | 0x40 => formR3prr c .pnew
  | 0x41 => formR1p c .pinf
  | 0x42 => formR3ppp c .padd
  | 0x43 => formR2rp c .pgetx
  | 0x44 => formR2rp c .pgety
  | 0x45 => formR2pp c .peq
  | 0x46 => formR1p c .ptest
  | 0x50 => formR3prp c .pmul
  | 0x51 => formR2pr c .pmulg
  | 0x52 => formR2rr c .fsqrt
  | 0x53 => formR2Mpr c .pdecomp
  | 0x60 => formR1r c .keyld
  | 0x61 => formR1p c .keypub
  | 0x62 => formZ c .keyclr
  | 0x63 => formR2rr c .nonce
  | 0x64 => formSign c
  | 0x65 => formR4rrrp c .verify
  | _ => .error .unknownOpcode

/-! ### The encoder -/

/-- The word with the given fields (R91). -/
def packWord (op f1 f2 f3 f4 imm8 : Nat) : Word :=
  BitVec.ofNat 32 (op * 2 ^ 24 + f1 * 2 ^ 20 + f2 * 2 ^ 16 + f3 * 2 ^ 12 + f4 * 2 ^ 8 + imm8)

/-- Bit `m` of a modulus operand (R95c). -/
def FieldSel.bit : FieldSel → Nat
  | .p => 0
  | .n => 1

/-- The opcode of each command (R96). -/
def Instr.opcode : Instr → Nat
  | .nop => 0x00 | .ldi _ _ => 0x01 | .ldc _ _ => 0x02 | .mov _ _ => 0x03 | .clr _ => 0x04 | .pmov _ _ => 0x05
  | .pclr _ => 0x06 | .fnew _ _ _ => 0x10 | .fint _ _ => 0x11 | .ired _ _ _ => 0x12 | .icmp _ _ => 0x13
  | .fadd _ _ _ => 0x20 | .fsub _ _ _ => 0x21 | .fmul _ _ _ => 0x22 | .fdiv _ _ _ => 0x23 | .finv _ _ => 0x24
  | .fpow _ _ _ => 0x25 | .feq _ _ => 0x26 | .mmul _ _ _ => 0x30 | .mto _ _ => 0x31 | .mfrom _ _ => 0x32
  | .pnew _ _ _ => 0x40 | .pinf _ => 0x41 | .padd _ _ _ => 0x42 | .pgetx _ _ => 0x43 | .pgety _ _ => 0x44
  | .peq _ _ => 0x45 | .ptest _ => 0x46 | .pmul _ _ _ => 0x50 | .pmulg _ _ => 0x51 | .fsqrt _ _ => 0x52
  | .pdecomp _ _ _ => 0x53 | .keyld _ => 0x60 | .keypub _ => 0x61 | .keyclr => 0x62 | .nonce _ _ => 0x63
  | .sign _ _ _ => 0x64 | .verify _ _ _ _ => 0x65

/-- The word of a command, from the field columns of the opcode map (R94, R96). -/
def encode (i : Instr) : Word :=
  match i with
  | .nop | .keyclr => packWord i.opcode 0 0 0 0 0
  | .ldi rd imm => packWord i.opcode rd 0 0 0 imm.toNat
  | .ldc rd idx => packWord i.opcode rd 0 0 0 idx.toNat
  | .clr f1 | .keyld f1 => packWord i.opcode f1 0 0 0 0
  | .pclr f1 | .pinf f1 | .ptest f1 | .keypub f1 => packWord i.opcode f1 0 0 0 0
  | .mov f1 f2 | .fint f1 f2 | .icmp f1 f2 | .finv f1 f2 | .feq f1 f2 | .mto f1 f2 | .mfrom f1 f2 | .fsqrt f1 f2
  | .nonce f1 f2 => packWord i.opcode f1 f2 0 0 0
  | .pmov f1 f2 | .peq f1 f2 => packWord i.opcode f1 f2 0 0 0
  | .pgetx f1 f2 | .pgety f1 f2 => packWord i.opcode f1 f2 0 0 0
  | .pmulg f1 f2 => packWord i.opcode f1 f2 0 0 0
  | .fnew f1 f2 m | .ired f1 f2 m => packWord i.opcode f1 f2 0 0 m.bit
  | .pdecomp f1 f2 odd => packWord i.opcode f1 f2 0 0 odd.toNat
  | .fadd f1 f2 f3 | .fsub f1 f2 f3 | .fmul f1 f2 f3 | .fdiv f1 f2 f3 | .fpow f1 f2 f3 | .mmul f1 f2 f3
  | .sign f1 f2 f3 => packWord i.opcode f1 f2 f3 0 0
  | .pnew f1 f2 f3 => packWord i.opcode f1 f2 f3 0 0
  | .padd f1 f2 f3 => packWord i.opcode f1 f2 f3 0 0
  | .pmul f1 f2 f3 => packWord i.opcode f1 f2 f3 0 0
  | .verify f1 f2 f3 f4 => packWord i.opcode f1 f2 f3 f4 0

/-- The command the decoder reads from the bits `w` of the opcode table's numbering. A command is one 32-bit word with no
byte order of its own (R68b, R90); bits above `nbits` are 0. -/
def decodeTableWord (nbits w : Nat) : Option Instr :=
  match decode (BitVec.ofNat 32 (w % 2 ^ nbits)) with
  | .ok i => some i
  | .error _ => none

/-! ### Pseudo-commands (R103) -/

/-- `PDBL pd, pa`. -/
def pseudoPdbl (pd pa : PtIdx) : List Instr := [.padd pd pa pa]
/-- `FSQR rd, ra`. -/
def pseudoFsqr (rd ra : RegIdx) : List Instr := [.fmul rd ra ra]
/-- `LDZ rd`. -/
def pseudoLdz (rd : RegIdx) : List Instr := [.ldi rd 0]
/-- `PGEN pd, rt`; `rt` is overwritten with the integer 1. -/
def pseudoPgen (pd : PtIdx) (rt : RegIdx) : List Instr := [.ldi rt 1, .pmulg pd rt]
/-- `FONE rd, rt, m`. -/
def pseudoFone (rd rt : RegIdx) (m : FieldSel) : List Instr := [.ldi rt 1, .fnew rd rt m]

end Sys2Proof
end

