-- ==== Sys2Proof/Config.lean ====
section
/-! DEFINITION. The parameters this hardware fixes (spec 00_scope.md R6 to R12, 10_state.md R36, R37, 42_montgomery.md
R170) and the values no rule fixes, as constants without a body. -/

namespace Sys2Proof.Config

open Sys2Proof

/-- The field prime `P = 2^256 - 2^32 - 977` (R7). -/
def P : Nat := 2 ^ 256 - 2 ^ 32 - 977

/-- The group order (R8; digits from general knowledge: log entry 12). -/
def N : Nat := 0xFFFFFFFFFFFFFFFFFFFFFFFFFFFFFFFEBAAEDCE6AF48A03BBFD25E8CD0364141

/-- Abscissa of the base point (R9; log entry 12). -/
def GX : Nat := 0x79BE667EF9DCBBAC55A06295CE870B07029BFCDB2DCE28D959F2815B16F81798

/-- Ordinate of the base point (R9; log entry 12). -/
def GY : Nat := 0x483ADA7726A3C4655DA4FBFC0E1108A8FD17B448A68554199C47D08FFB10D4B8

/-- Curve parameter `a` (R10). -/
def curveA : Nat := 0

/-- Curve parameter `b` (R10). -/
def curveB : Nat := 7

/-- The Montgomery radix (R6, R170). -/
def R : Nat := 2 ^ 256

/-- `R² mod P` (R36). -/
def R2P : Nat := 0x1000007A2000E90A1

/-- `R² mod N` (R36). -/
def R2N : Nat := 0x9D671CD581C69BC5E697F5E45BCD07C6741496C20E7CF878896CF21467D7D140

/-- `(P + 1) div 4` (R36). -/
def sqrtExp : Nat := 0x3FFFFFFFFFFFFFFFFFFFFFFFFFFFFFFFFFFFFFFFFFFFFFFFFFFFFFFFBFFFFF0C

/-- `N div 2` (R36). -/
def halfN : Nat := 0x7FFFFFFFFFFFFFFFFFFFFFFFFFFFFFFF5D576E7357A4501DDFE92F46681B20A0

/-- `R mod P` (R36). -/
def R1P : Nat := 0x1000003D1

/-- `R mod N` (R36). -/
def R1N : Nat := 0x14551231950B75FC4402DA1732FC9BEBF

/-- `MP' = -P⁻¹ mod 2^256` (R37). -/
def mPrimeP : Nat := 0xC9BD190515538399_9C46C2C295F2B761_BCB223FEDC24A059_D838091DD2253531

/-- `MN' = -N⁻¹ mod 2^256` (R37). -/
def mPrimeN : Nat := 0xD9E8890D6494EF93_897F30C127CFAB5E_50A51AC834B9EC24_4B0DFF665588B13F

/-- `R⁻¹ mod P` (R170). -/
def rInvP : Nat := 0xC9BD190515538399_9C46C2C295F2B761_BCB223FEDC24A059_D838091D0868192A

/-- `R⁻¹ mod N` (R170). -/
def rInvN : Nat := 0xD9E8890D6494EF93_897F30C127CFAB5D_3BBBD4567FA50C3C_80FD22938097C016

/-- The word of the register ID (R40). -/
def idWord : Word := 0x4D4D4D07#32

/-- FREE VALUE: the external keyed hash on the requests that `State.env.hmac.table` does not list (R12: "the block
assumes only that it is a function"; log entry 1). -/
opaque hmac256 : Val → List Byte → Val

/-- FREE VALUE: what the `n`-th host read made while reset is asserted returns (R381: "no specified result"; log
entry 6). -/
opaque freeWord : Nat → Word

end Sys2Proof.Config
end

