-- ==== Sys2Proof/Machine/State.lean ====
section
/-! DEFINITION. The architectural state of MMCORE (spec 10_state.md), its reset value (R51), and, in `Env`, the block's
environment as plain data: the moves of the host, the reset line and the HMAC provider (00_scope.md R16). -/

namespace Sys2Proof.Machine

open Sys2Proof

/-! ### Registers -/

/-- The tag of a value register (R21). -/
inductive Tag where
  /-- Holds nothing. -/
  | empty
  /-- A plain unsigned integer. -/
  | int
  /-- An element of the field of `P`. -/
  | fp
  /-- An element of the field of `N`. -/
  | fn
  deriving DecidableEq, Repr

/-- A value register: tag and 256 bits (R20). -/
structure ValReg where
  tag : Tag
  val : Val
  deriving DecidableEq, Repr

/-- The tag of a point register; the value 3 is never held (R27). -/
inductive PTag where
  | empty
  | identity
  | affine
  deriving DecidableEq, Repr

/-- A point register: ptag and two 256-bit coordinates (R26). -/
structure PointReg where
  ptag : PTag
  x : Val
  y : Val
  deriving DecidableEq, Repr

/-- The content of a point register that holds nothing (R27). -/
def PointReg.nothing : PointReg := ⟨.empty, 0, 0⟩

/-- The key slot (R30). `pub` is `PointReg.nothing` when the slot is invalid. -/
structure KeySlot where
  valid : Bool
  secret : Val
  pub : PointReg
  deriving DecidableEq, Repr

/-- The five flags of FLAGS (R33). -/
structure FlagBits where
  eq : Bool
  lt : Bool
  inf : Bool
  valid : Bool
  divz : Bool
  deriving DecidableEq, Repr

/-- The two enables of CTRL (R41). -/
structure CtrlBits where
  ieDone : Bool
  ieErr : Bool
  deriving DecidableEq, Repr

/-- STATUS.STATE; the value 3 is never held (R42). -/
inductive RunState where
  | idle
  | busy
  | error
  deriving DecidableEq, Repr

/-- The named error kinds of ERR.CODE (60_exceptions.md R341). -/
inductive ErrorKind where
  | rangeError
  | domainMismatch
  | curveMismatch
  | notOnCurve
  | formatError
  | illegalCommand
  | emptyRegister
  | operandType
  | noKey
  | identityCoordinate
  deriving DecidableEq, Repr

/-- What ERR records (R43): the kind and the number of the command field, 0 when no field is to blame. -/
structure ErrorRecord where
  kind : ErrorKind
  info : BitVec 4
  deriving DecidableEq, Repr

/-- The sticky bits of FAULT (R46). -/
structure FaultBits where
  cmdovr : Bool
  accv : Bool
  buserr : Bool
  deriving DecidableEq, Repr

/-- The hidden working state (R48, R49). The ratchet's `K`, `V` are live between the turns of a NONCE or SIGN whose
candidate was refused (R277, R283); the rest is zero whenever a step ends (R50; log entry 10). -/
structure Work where
  /-- The nonce generator holds live buffers. -/
  ratcheting : Bool
  bufK : Val
  bufV : Val
  nonceK : Val
  nonceInv : Val
  nonceR : PointReg
  mulAcc : BitVec 513
  invU : Val
  invV : Val
  invX1 : Val
  invX2 : Val
  jacX : Val
  jacY : Val
  jacZ : Val
  scalarShift : Val
  deriving DecidableEq, Repr

/-- The hidden state cleared to zero (R50, R51). -/
def Work.zero : Work :=
  ⟨false, 0, 0, 0, 0, PointReg.nothing, 0, 0, 0, 0, 0, 0, 0, 0, 0⟩

/-! ### The environment, as plain data (the model's own) -/

/-- One move of an agent other than the core, or the core's turn (00_scope.md R16; log entry 4). -/
inductive Move where
  /-- A host read of `bytes` bytes at offset `off` (20_memory.md R62). -/
  | read (off bytes : Nat)
  /-- A host write of `bytes` bytes at offset `off` (R63). -/
  | write (off bytes : Nat) (data : Word)
  /-- The reset input goes active (70_reset_and_hazards.md R380). -/
  | assertReset
  /-- The reset input is released (R381). -/
  | releaseReset
  /-- The HMAC provider begins or ceases to answer (R80, R83). -/
  | provider (answering : Bool)
  /-- The core moves while the host waits (R72). -/
  | coreTurn
  deriving DecidableEq, Repr

/-- One request on the HMAC port (R80). -/
structure HmacRequest where
  key : Val
  msg : List Byte
  deriving DecidableEq, Repr

/-- One known value of the function HMAC256 (R12). -/
structure HmacEntry where
  req : HmacRequest
  answer : Val
  deriving DecidableEq, Repr

/-- The HMAC port (R80 to R83): the function as a finite table over the opaque `Config.hmac256` (log entry 1), whether
the provider answers (log entry 2), and the requests answered so far, newest first (log entry 7). -/
structure HmacPort where
  table : List HmacEntry
  answering : Bool
  answered : List HmacRequest
  deriving DecidableEq, Repr

/-- Everything outside the block that its next transitions depend on. -/
structure Env where
  /-- The moves still to come, the next one first (log entry 4). -/
  agenda : List Move
  /-- The words the host's reads returned, newest first (log entry 8). -/
  answers : List Word
  hmac : HmacPort
  /-- How many free values have been used (log entry 6). -/
  freeCount : Nat
  deriving DecidableEq, Repr

/-! ### The state -/

/-- The state of the block, and its environment. -/
structure State where
  /-- `r0` to `r15` (R20). -/
  regs : Vector ValReg 16
  /-- `p0` to `p7` (R26). -/
  points : Vector PointReg 8
  /-- The key slot (R30). -/
  key : KeySlot
  /-- FLAGS (R33). -/
  flags : FlagBits
  /-- CTRL (R41). -/
  ctrl : CtrlBits
  /-- STATUS.STATE (R42). -/
  runState : RunState
  /-- STATUS.DONE (R42). -/
  done : Bool
  /-- ERR; `none` is CODE 0, INFO 0 (R43). -/
  err : Option ErrorRecord
  /-- SEQ (R38). -/
  seq : BitVec 32
  /-- LASTCMD (R39). -/
  lastCmd : Word
  /-- FAULT (R46). -/
  fault : FaultBits
  /-- The accepted command that has not been performed (R38, R49). -/
  pending : Option Word
  /-- The hidden working state (R48, R49). -/
  work : Work
  /-- The reset input is asserted (R380). -/
  resetLine : Bool
  /-- The environment. -/
  env : Env
  deriving DecidableEq, Repr

/-- The environment in which nothing has happened and nothing is planned (log entries 1, 2, 4, 6, 7, 8). -/
def Env.quiet : Env := ⟨[], [], ⟨[], true, []⟩, 0⟩

/-- The machine right after reset (R51): "Nothing is left unspecified." -/
def State.reset : State where
  regs := Vector.replicate 16 ⟨.empty, 0⟩
  points := Vector.replicate 8 PointReg.nothing
  key := ⟨false, 0, PointReg.nothing⟩
  flags := ⟨false, false, false, false, false⟩
  ctrl := ⟨false, false⟩
  runState := .idle
  done := false
  err := none
  seq := 0
  lastCmd := 0
  fault := ⟨false, false, false⟩
  pending := none
  work := Work.zero
  resetLine := false
  env := Env.quiet

/-! ### How a step can stop -/

/-- The faults of the model. The spec names no event that stops the block: command errors and bus misuse are next states
(60_exceptions.md R350, R356). -/
inductive Fault where
  /-- Raised by the step alone, when `runState` is BUSY and no command is pending: a state no run from reset reaches, to
  which the spec gives no meaning (R38, R70). Safe (log entry 11). -/
  | busyWithoutCommand
  deriving DecidableEq, Repr

/-- The refusals of the model. -/
inductive Refusal where
  /-- Raised by an arm of `exec` whose instruction has no meaning yet. Safe. No arm raises it now. -/
  | notModelled (mnemonic : String)
  deriving DecidableEq, Repr

end Sys2Proof.Machine
end

