-- ==== Sys2Proof/Machine/Ops.lean ====
section
/-! DEFINITION. The named operations on the state: register access, the end of a command (20_memory.md R72), taking an
error (60_exceptions.md R350) and returning from it (R358), accepting a command (R70), reset (R380), the control words
(10_state.md R33, R41 to R46) and the interrupt line (R360). -/

namespace Sys2Proof.Machine

open Sys2Proof

/-! ### Registers -/

/-- `r[i]` (R20). -/
def State.reg (s : State) (i : RegIdx) : ValReg := s.regs[i]

/-- `r[i].tag`. -/
def State.tagOf (s : State) (i : RegIdx) : Tag := (s.reg i).tag

/-- `r[i].val` as an unsigned integer (R13). -/
def State.valOf (s : State) (i : RegIdx) : Nat := (s.reg i).val.toNat

/-- `p[j]` (R26). -/
def State.point (s : State) (j : PtIdx) : PointReg := s.points[j]

/-- `r[i] <- v` (R14). -/
def State.writeReg (s : State) (i : RegIdx) (v : ValReg) : State := { s with regs := s.regs.set i v }

/-- `p[j] <- v` (R14). -/
def State.writePoint (s : State) (j : PtIdx) (v : PointReg) : State := { s with points := s.points.set j v }

/-- Writes the key slot (R30, R31). -/
def State.writeKey (s : State) (k : KeySlot) : State := { s with key := k }

/-- Writes FLAGS (R33). -/
def State.writeFlags (s : State) (f : FlagBits) : State := { s with flags := f }

/-- Writes FAULT (R46). -/
def State.writeFault (s : State) (f : FaultBits) : State := { s with fault := f }

/-- The register content `(t, v)` for an integer `0 ≤ v < 2^256` (R14, R15). -/
def tagged (t : Tag) (v : Nat) : ValReg := ⟨t, BitVec.ofNat 256 v⟩

/-! ### The end of a command -/

/-- The command completes: STATE is IDLE, DONE is set, nothing is pending, the hidden state is cleared (R72, R50). -/
def State.finish (s : State) : State :=
  { s with runState := .idle, done := true, pending := none, work := Work.zero }

/-- Error entry, one transition: STATE is ERROR, ERR is written, and nothing else the host can see changes; DONE stays as
acceptance left it (R350, R50). -/
def State.raiseError (s : State) (e : ErrorRecord) : State :=
  { s with runState := .error, err := some e, pending := none, work := Work.zero }

/-- Return from an error, the effect of ACK bit 1: in ERROR, STATE is IDLE and ERR is 0; elsewhere nothing (R44, R358). -/
def State.returnFromError (s : State) : State :=
  if s.runState = .error then { s with runState := .idle, err := none } else s

/-! ### Accepting a command -/

/-- What accepting `c` does, as one step (R70, R38, R39). -/
def State.accept (s : State) (c : Word) : State :=
  { s with runState := .busy, done := false, seq := s.seq + 1, lastCmd := c, pending := some c }

/-! ### Checks of a command -/

/-- One check of a command's rule: what must hold, and the error raised if it does not (R105). -/
structure Check where
  holds : Bool
  kind : ErrorKind
  info : BitVec 4
  deriving DecidableEq, Repr

/-- The error of the first check that fails; later checks are not made (R105, R346). -/
def firstFailing : List Check → Option ErrorRecord
  | [] => none
  | c :: cs => if c.holds then firstFailing cs else some ⟨c.kind, c.info⟩

/-- A command with its checks in order: the first failing check decides the error, otherwise the machine goes to `t`
(R72, R105). -/
def guarded (checks : List Check) (s t : State) : Host.Outcome State Fault Refusal :=
  match firstFailing checks with
  | some e => .next (s.raiseError e)
  | none => .next t

/-- The record IllegalCommand(0) (R343). -/
def illegalCommand : ErrorRecord := ⟨.illegalCommand, 0⟩

/-! ### Reset -/

/-- Reset is asserted: the block goes to its reset state; its environment is not part of the block (R380, R382). -/
def State.assertReset (s : State) : State := { State.reset with resetLine := true, env := s.env }

/-- Reset is released (R381). -/
def State.releaseReset (s : State) : State := { s with resetLine := false }

/-! ### The environment -/

/-- The rest of the agenda after its first move. -/
def State.withAgenda (s : State) (rest : List Move) : State := { s with env := { s.env with agenda := rest } }

/-- The host's read returned `w` (R62). -/
def State.answer (s : State) (w : Word) : State := { s with env := { s.env with answers := w :: s.env.answers } }

/-- A read with no specified result: a free value, and the counter advances (R381; log entry 6). -/
def State.answerFree (s : State) : State :=
  { s with env := { s.env with
      answers := Config.freeWord s.env.freeCount :: s.env.answers, freeCount := s.env.freeCount + 1 } }

/-- The provider begins or ceases to answer (R83). -/
def State.setProvider (s : State) (a : Bool) : State :=
  { s with env := { s.env with hmac := { s.env.hmac with answering := a } } }

/-- The requests `rs`, newest first, have been answered (R80). -/
def State.logRequests (s : State) (rs : List HmacRequest) : State :=
  { s with env := { s.env with hmac := { s.env.hmac with answered := rs ++ s.env.hmac.answered } } }

/-! ### Control words -/

/-- The code of a tag, read at TAG (R21, R66). -/
def Tag.code : Tag → Nat
  | .empty => 0
  | .int => 1
  | .fp => 2
  | .fn => 3

/-- The code of a ptag, read at PTAG (R27, R67). -/
def PTag.code : PTag → Nat
  | .empty => 0
  | .identity => 1
  | .affine => 2

/-- The code of STATUS.STATE (R42). -/
def RunState.code : RunState → Nat
  | .idle => 0
  | .busy => 1
  | .error => 2

/-- The number in ERR.CODE (R341). -/
def ErrorKind.code : ErrorKind → Nat
  | .rangeError => 1
  | .domainMismatch => 2
  | .curveMismatch => 3
  | .notOnCurve => 4
  | .formatError => 5
  | .illegalCommand => 8
  | .emptyRegister => 9
  | .operandType => 10
  | .noKey => 11
  | .identityCoordinate => 12

/-- The word read at CTRL (R41). -/
def State.ctrlWord (s : State) : Word := BitVec.ofNat 32 (s.ctrl.ieDone.toNat + 2 * s.ctrl.ieErr.toNat)

/-- The word read at STATUS; KEYV is a copy of `KEY.valid` (R42). -/
def State.statusWord (s : State) : Word :=
  BitVec.ofNat 32 (s.runState.code + 4 * s.done.toNat + 8 * s.key.valid.toNat)

/-- The word read at FLAGS (R33). -/
def State.flagsWord (s : State) : Word :=
  BitVec.ofNat 32 (s.flags.eq.toNat + 2 * s.flags.lt.toNat + 4 * s.flags.inf.toNat + 8 * s.flags.valid.toNat
    + 16 * s.flags.divz.toNat)

/-- The word read at ERR: CODE in bits 7:0, INFO in bits 11:8 (R43). -/
def State.errWord (s : State) : Word :=
  match s.err with
  | none => 0
  | some e => BitVec.ofNat 32 (e.kind.code + 256 * e.info.toNat)

/-- The word read at FAULT (R46). -/
def State.faultWord (s : State) : Word :=
  BitVec.ofNat 32 (s.fault.cmdovr.toNat + 2 * s.fault.accv.toNat + 4 * s.fault.buserr.toNat)

/-- The interrupt line, a level computed from the state (R360). -/
def State.irq (s : State) : Bool :=
  (s.ctrl.ieDone && s.done) || (s.ctrl.ieErr && decide (s.runState = .error))

end Sys2Proof.Machine
end

