-- ==== Sys2Proof/Machine/Flags.lean ====
section
/-! DEFINITION. The flag writes (10_state.md R33): each replaces only the flags in its row, the others keep their values. -/

namespace Sys2Proof.Machine

open Sys2Proof

/-- `FLAGS.EQ <- b`: ICMP, FEQ, PEQ (R130, R147, R208). -/
def State.setEq (s : State) (b : Bool) : State := s.writeFlags { s.flags with eq := b }

/-- `FLAGS.EQ <- e; FLAGS.LT <- l`: ICMP (R130). -/
def State.setEqLt (s : State) (e l : Bool) : State := s.writeFlags { s.flags with eq := e, lt := l }

/-- `FLAGS.INF <- b`: PTEST (R209). -/
def State.setInf (s : State) (b : Bool) : State := s.writeFlags { s.flags with inf := b }

/-- `FLAGS.VALID <- b`: VERIFY (R290). -/
def State.setValid (s : State) (b : Bool) : State := s.writeFlags { s.flags with valid := b }

/-- Sets the sticky flag DIVZ when the divisor is 0 and never clears it: FDIV, FINV (R144, R145, R152). -/
def State.noteDivisor (s : State) (b : Nat) : State :=
  s.writeFlags { s.flags with divz := s.flags.divz || decide (b = 0) }

/-- `FLAGS.DIVZ <- 0`: ACK bit 2 (R44). -/
def State.clearDivz (s : State) : State := s.writeFlags { s.flags with divz := false }

end Sys2Proof.Machine
end

