-- ==== Sys2Proof/Machine/Field.lean ====
section
/-! DEFINITION. Arithmetic modulo `P` and `N` on mathematical integers, reduced at the end (41_field.md R140 to R146,
42_montgomery.md R170, R180). -/

namespace Sys2Proof.Machine

open Sys2Proof

/-- The modulus of a field tag (R14: `M(FP) = P`, `M(FN) = N`). The value at EMPTY and INT is used by no command: the
element checks come first (log entry 15). -/
def Tag.modulus : Tag → Nat
  | .fn => Config.N
  | .fp | .int | .empty => Config.P

/-- The tag FP or FN of an element (R22). -/
def Tag.isField : Tag → Bool
  | .fp | .fn => true
  | .int | .empty => false

/-- The tag that `m` selects (R95c). -/
def fieldTag : FieldSel → Tag
  | .p => .fp
  | .n => .fn

/-- `(a + b) mod m` (R141). -/
def addMod (m a b : Nat) : Nat := (a + b) % m

/-- `(a - b) mod m`, the least non-negative residue (R142, R14). -/
def subMod (m a b : Nat) : Nat := (((a : Int) - (b : Int)) % (m : Int)).toNat

/-- `(a · b) mod m` (R143). -/
def mulMod (m a b : Nat) : Nat := a * b % m

/-- Square-and-multiply over `fuel` bits of `e`, the lowest first (R179). -/
def powLoop (m : Nat) : Nat → Nat → Nat → Nat → Nat
  | 0, _, _, acc => acc
  | fuel + 1, b, e, acc => powLoop m fuel (b * b % m) (e / 2) (if e % 2 = 1 then acc * b % m else acc)

/-- `a^e mod m` for a 256-bit exponent, with `a^0 = 1` (R146, R179). -/
def powMod (m a e : Nat) : Nat := powLoop m 256 a e (1 % m)

/-- The value of every inverse: the Fermat power `a^(m-2) mod m`, 0 for 0 (R144, R145, R180). -/
def invMod (m a : Nat) : Nat := powMod m a (m - 2)

/-- `(a · b⁻¹) mod m` with the Fermat inverse (R144). -/
def divMod (m a b : Nat) : Nat := a * invMod m b % m

/-- FPOW's procedure: reduce the exponent modulo `m - 1`, then exponentiate (R146). -/
def fieldPow (m a e : Nat) : Nat := powMod m a (e % (m - 1))

/-- `R⁻¹ mod m` of the field of a tag (R170). -/
def Tag.radixInv : Tag → Nat
  | .fn => Config.rInvN
  | .fp | .int | .empty => Config.rInvP

/-- `a · b · R⁻¹ mod m`, the Montgomery product (R170, R174). -/
def montProduct (t : Tag) (a b : Nat) : Nat := a * b * t.radixInv % t.modulus

/-- `a · R mod m` (R175). -/
def toMont (m a : Nat) : Nat := a * Config.R % m

/-- `a · R⁻¹ mod m` (R176). -/
def fromMont (t : Tag) (a : Nat) : Nat := a * t.radixInv % t.modulus

end Sys2Proof.Machine
end

