-- ==== Sys2Proof/Machine/Curve.lean ====
section
/-! DEFINITION. The curve and its group law over affine points (43_point.md R200 to R205) and the scalar multiplier
(44_secp256k1_scalar.md R241). -/

namespace Sys2Proof.Machine

open Sys2Proof

/-- A point value: the identity or an affine pair (R27). -/
inductive Point where
  | identity
  | affine (x y : Nat)
  deriving DecidableEq, Repr

/-- The right side of the curve equation, `x³ + a·x + b mod P` (R201, R246). -/
def curveRhs (x : Nat) : Nat := (x * x * x + Config.curveA * x + Config.curveB) % Config.P

/-- `OnCurve(x, y)` (R201). -/
def onCurve (x y : Nat) : Bool := decide (y * y % Config.P = curveRhs x)

/-- The chord and tangent lines end alike: `x3 = s² - x1 - x2`, `y3 = s·(x1 - x3) - y1` (R205 lines 4 and 6). -/
def lineThrough (slope x1 y1 x2 : Nat) : Point :=
  let x3 := subMod Config.P (subMod Config.P (mulMod Config.P slope slope) x1) x2
  .affine x3 (subMod Config.P (mulMod Config.P slope (subMod Config.P x1 x3)) y1)

/-- `Add(A, B)`, the six lines of R205. -/
def Point.add : Point → Point → Point
  | .identity, B => B
  | A, .identity => A
  | .affine x1 y1, .affine x2 y2 =>
    if x1 = x2 ∧ y1 ≠ y2 then .identity
    else if x1 ≠ x2 then
      lineThrough (divMod Config.P (subMod Config.P y2 y1) (subMod Config.P x2 x1)) x1 y1 x2
    else if y1 = 0 then .identity
    else
      lineThrough (divMod Config.P ((3 * x1 * x1 + Config.curveA) % Config.P) (addMod Config.P y1 y1)) x1 y1 x1

/-- The double-and-add loop, lowest bit first; it ends when `coef` is 0 (R241). -/
def scalarLoop : Nat → Nat → Point → Point → Point
  | 0, _, _, res => res
  | fuel + 1, coef, cur, res =>
    if coef = 0 then res
    else scalarLoop fuel (coef / 2) (cur.add cur) (if coef % 2 = 1 then res.add cur else res)

/-- `ScalarMul(k, A)`: at most 256 iterations, since `k mod N < 2^256` (R241). -/
def scalarMul (k : Nat) (A : Point) : Point := scalarLoop 256 (k % Config.N) A .identity

/-- The base point (R9). -/
def basePoint : Point := .affine Config.GX Config.GY

/-- `pt(j)`: the point value a register holds (R14). A register that holds nothing is no source of a command: the empty
check comes first (log entry 15). -/
def PointReg.pt (r : PointReg) : Point :=
  match r.ptag with
  | .affine => .affine r.x.toNat r.y.toNat
  | .identity | .empty => .identity

/-- The register content of a point value (R14, R27). -/
def Point.toReg : Point → PointReg
  | .identity => ⟨.identity, 0, 0⟩
  | .affine x y => ⟨.affine, BitVec.ofNat 256 x, BitVec.ofNat 256 y⟩

/-- The abscissa of an affine point. SIGN takes it of a point that is never the identity (R279; log entry 15). -/
def Point.xCoord : Point → Nat
  | .identity => 0
  | .affine x _ => x

/-- The candidate root `v^((P+1)/4) mod P` (R245). -/
def sqrtCandidate (v : Nat) : Nat := powMod Config.P v Config.sqrtExp

/-- The root of the wanted parity: `beta`, or the other root `P - beta` (R246). -/
def rootOfParity (beta : Nat) (odd : Bool) : Nat := if beta % 2 = odd.toNat then beta else Config.P - beta

end Sys2Proof.Machine
end

