-- ==== Sys2Proof/Machine/Nonce.lean ====
section
/-! DEFINITION. The nonce generator (45_ecdsa.md R275 to R283) and its use of the HMAC port (20_memory.md R80, R81). -/

namespace Sys2Proof.Machine

open Sys2Proof

/-- `be32(v)`: 32 bytes, most significant first (00_scope.md R14). -/
def be32 (v : Val) : List Byte := (List.range 32).map fun i => v.extractLsb' (8 * (31 - i)) 8

/-- HMAC256 as the port gives it: the table's answer, else the opaque function (R12, R80; log entry 1). -/
def State.hmac256 (s : State) (key : Val) (msg : List Byte) : Val :=
  match s.env.hmac.table.find? fun e => decide (e.req = ⟨key, msg⟩) with
  | some e => e.answer
  | none => Config.hmac256 key msg

/-- `z' = z - N if z > N, else z`: the test is strict (R275). -/
def reduceDigest (z : Val) : Val :=
  if z.toNat > Config.N then BitVec.ofNat 256 (z.toNat - Config.N) else z

/-- The two 32-byte buffers and the requests made so far, newest first (R276). -/
structure Ratchet where
  K : Val
  V : Val
  sent : List HmacRequest
  deriving DecidableEq, Repr

/-- `K <- HMAC256(K, msg)` (R276). -/
def Ratchet.newK (h : Val → List Byte → Val) (r : Ratchet) (msg : List Byte) : Ratchet :=
  { r with K := h r.K msg, sent := ⟨r.K, msg⟩ :: r.sent }

/-- `V <- HMAC256(K, V)` (R276). -/
def Ratchet.newV (h : Val → List Byte → Val) (r : Ratchet) : Ratchet :=
  { r with V := h r.K (be32 r.V), sent := ⟨r.K, be32 r.V⟩ :: r.sent }

/-- `K` is 32 bytes `0x00` and `V` is 32 bytes `0x01` (R276). -/
def Ratchet.initial : Ratchet :=
  ⟨0, 0x0101010101010101010101010101010101010101010101010101010101010101#256, []⟩

/-- One seeding round: `K <- HMAC256(K, V ‖ sep ‖ be32(secret) ‖ be32(z'))`, then `V` (R276). -/
def Ratchet.seedRound (h : Val → List Byte → Val) (sep : Byte) (secret z' : Val) (r : Ratchet) : Ratchet :=
  (r.newK h (be32 r.V ++ [sep] ++ be32 secret ++ be32 z')).newV h

/-- The two seeding rounds (R276). -/
def seedRatchet (h : Val → List Byte → Val) (secret z : Val) : Ratchet :=
  (Ratchet.initial.seedRound h 0x00 secret (reduceDigest z)).seedRound h 0x01 secret (reduceDigest z)

/-- Ratchet the state once more after a refused candidate (R276). -/
def Ratchet.retry (h : Val → List Byte → Val) (r : Ratchet) : Ratchet :=
  (r.newK h (be32 r.V ++ [0x00])).newV h

/-- `1 ≤ cand and cand < N` (R277). -/
def nonceAccepted (cand : Val) : Bool := decide (1 ≤ cand.toNat ∧ cand.toNat < Config.N)

/-- The ratchet with which a turn begins: the live buffers, or freshly seeded ones (R276, R277). -/
def turnStart (h : Val → List Byte → Val) (secret z : Val) (w : Work) : Ratchet :=
  if w.ratcheting then ⟨w.bufK, w.bufV, []⟩ else seedRatchet h secret z

/-- The ratchet after this turn's candidate `V <- HMAC256(K, V)` (R277). -/
def turnCandidate (h : Val → List Byte → Val) (secret z : Val) (w : Work) : Ratchet :=
  (turnStart h secret z w).newV h

/-- The generator keeps its buffers for the next turn; the command stays pending (R277, R283; log entry 3). -/
def State.keepRatchet (s : State) (r : Ratchet) : State :=
  ({ s with work := { s.work with ratcheting := true, bufK := r.K, bufV := r.V } }).logRequests r.sent

/-- One turn of the nonce loop for digest `z`: an accepted candidate `k` goes to `use`; a refused one leaves the command
BUSY with the ratcheted buffers; a provider that does not answer leaves everything as it is (R277, R283, R83). -/
def nonceTurn (s : State) (z : Val) (use : Val → State → State) : State :=
  if s.env.hmac.answering then
    let r := turnCandidate s.hmac256 s.key.secret z s.work
    if nonceAccepted r.V then use r.V (s.logRequests r.sent)
    else s.keepRatchet (r.retry s.hmac256)
  else s

/-- The candidates of `Nonce(secret, z)` in order, as one function of the number of refusals before (R277, R278). -/
def ratchetAt (h : Val → List Byte → Val) (secret z : Val) : Nat → Ratchet
  | 0 => (seedRatchet h secret z).newV h
  | j + 1 => ((ratchetAt h secret z j).retry h).newV h

end Sys2Proof.Machine
end

