-- ==== Sys2Proof/Machine/Operands.lean ====
section
/-! DEFINITION. The operand forms of the commands: the checks a source must pass, by class (60_exceptions.md R346), and the
constant store (10_state.md R36). -/

namespace Sys2Proof.Machine

open Sys2Proof

/-! ### Checks, one per condition; `n` is the number of the command field (R353) -/

/-- The word is legal; else IllegalCommand(0) (R343). -/
def legalWord (i : Instr) : Check := ⟨i.wellFormed, .illegalCommand, 0⟩

/-- `KEY.valid = 1`; else NoKey(0) (R351). -/
def keyLoaded (s : State) : Check := ⟨s.key.valid, .noKey, 0⟩

/-- `r[i]` is not EMPTY; else EmptyRegister(n) (R25, R345). -/
def regHeld (n : BitVec 4) (i : RegIdx) (s : State) : Check := ⟨decide (s.tagOf i ≠ .empty), .emptyRegister, n⟩

/-- `p[j]` is not EMPTY; else EmptyRegister(n) (R345). -/
def pointHeld (n : BitVec 4) (j : PtIdx) (s : State) : Check :=
  ⟨decide ((s.point j).ptag ≠ .empty), .emptyRegister, n⟩

/-- `r[i].tag = INT`; else OperandTypeError(n) (R349). -/
def isInt (n : BitVec 4) (i : RegIdx) (s : State) : Check := ⟨decide (s.tagOf i = .int), .operandType, n⟩

/-- `r[i].tag ∈ {FP, FN}`; else OperandTypeError(n) (R349). -/
def isElement (n : BitVec 4) (i : RegIdx) (s : State) : Check := ⟨(s.tagOf i).isField, .operandType, n⟩

/-- The two elements have equal tags; else DomainMismatchError(n) (R22, R347). -/
def sameField (n : BitVec 4) (i j : RegIdx) (s : State) : Check :=
  ⟨decide (s.tagOf i = s.tagOf j), .domainMismatch, n⟩

/-- `r[i].tag = FP`; else DomainMismatchError(n) (R347). -/
def inFieldP (n : BitVec 4) (i : RegIdx) (s : State) : Check := ⟨decide (s.tagOf i = .fp), .domainMismatch, n⟩

/-- A range condition; else RangeError(n) (R344). -/
def inRange (n : BitVec 4) (ok : Bool) : Check := ⟨ok, .rangeError, n⟩

/-- `OnCurve(x, y)`; else NotOnCurveError(0) (R348). -/
def coordsOnCurve (x y : Nat) : Check := ⟨onCurve x y, .notOnCurve, 0⟩

/-- `p[j]` is affine; else IdentityCoordinate(n) (R352). -/
def hasCoords (n : BitVec 4) (j : PtIdx) (s : State) : Check :=
  ⟨decide ((s.point j).ptag = .affine), .identityCoordinate, n⟩

/-! ### The operand forms that several commands share -/

/-- A source integer in field `n`. -/
def intOperand (n : BitVec 4) (i : RegIdx) (s : State) : List Check := [regHeld n i s, isInt n i s]

/-- A source element in field `n`. -/
def elementOperand (n : BitVec 4) (i : RegIdx) (s : State) : List Check := [regHeld n i s, isElement n i s]

/-- A source element of the field of `P` in field `n` (R245, R246). -/
def elementPOperand (n : BitVec 4) (i : RegIdx) (s : State) : List Check :=
  [regHeld n i s, isElement n i s, inFieldP n i s]

/-- The common checks (2) to (6) of the two-source field commands, `ra = f2`, `rb = f3` (41_field.md R148). -/
def elementPair (ra rb : RegIdx) (s : State) : List Check :=
  [regHeld 2 ra s, regHeld 3 rb s, isElement 2 ra s, isElement 3 rb s, sameField 3 ra rb s]

/-! ### The constant store (R36) -/

/-- `CONST[idx]`; LDC refuses an index above 11 before it reads the store (R122). -/
def constStore (idx : Nat) : Nat :=
  match idx with
  | 0 => Config.P
  | 1 => Config.N
  | 2 => Config.GX
  | 3 => Config.GY
  | 4 => Config.curveA
  | 5 => Config.curveB
  | 6 => Config.R2P
  | 7 => Config.R2N
  | 8 => Config.sqrtExp
  | 9 => Config.halfN
  | 10 => Config.R1P
  | 11 => Config.R1N
  | _ => 0

end Sys2Proof.Machine
end

