-- ==== Sys2Proof/Machine/Ecdsa.lean ====
section
/-! DEFINITION. Key slot, NONCE, SIGN and VERIFY (45_ecdsa.md). -/

namespace Sys2Proof.Machine

open Sys2Proof

/-- KEYLD (R272): the public point is derived and cached. -/
def execKeyld (rs : RegIdx) (s : State) : Host.Outcome State Fault Refusal :=
  guarded (intOperand 1 rs s ++ [inRange 1 (decide (1 ≤ s.valOf rs ∧ s.valOf rs < Config.N))]) s
    (s.writeKey ⟨true, (s.reg rs).val, (scalarMul (s.valOf rs) basePoint).toReg⟩).finish

/-- KEYPUB (R273). -/
def execKeypub (pd : PtIdx) (s : State) : Host.Outcome State Fault Refusal :=
  guarded [keyLoaded s] s (s.writePoint pd s.key.pub).finish

/-- KEYCLR (R274). -/
def execKeyclr (s : State) : Host.Outcome State Fault Refusal :=
  guarded [] s (s.writeKey ⟨false, 0, PointReg.nothing⟩).finish

/-- NONCE (R280): one turn of the nonce loop; an accepted candidate is written. -/
def execNonce (rd rz : RegIdx) (s : State) : Host.Outcome State Fault Refusal :=
  guarded (keyLoaded s :: intOperand 2 rz s) s
    (nonceTurn s (s.reg rz).val fun k t => (t.writeReg rd ⟨.int, k⟩).finish)

/-- Step 3 of Sign: `((z + r·d) · k^(N-2)) mod N` (R285). -/
def signS (z r d k : Nat) : Nat := (z + r * d) * invMod Config.N k % Config.N

/-- Step 4 of Sign: `if s > HALF_N then N - s` (R285, R286). -/
def lowS (s : Nat) : Nat := if s > Config.halfN then Config.N - s else s

/-- Steps 2 to 4 of Sign: the signature `(r, s)` of `z` under `d` with the nonce `k` (R285). -/
def signature (z d k : Nat) : Nat × Nat :=
  let r := (scalarMul k basePoint).xCoord
  (r, lowS (signS z r d k))

/-- SIGN (R285): one turn of the nonce loop; an accepted candidate makes the signature. -/
def execSign (rr rs rz : RegIdx) (s : State) : Host.Outcome State Fault Refusal :=
  guarded (legalWord (.sign rr rs rz) :: keyLoaded s :: intOperand 3 rz s) s
    (nonceTurn s (s.reg rz).val fun k t =>
      let sig := signature (s.valOf rz) s.key.secret.toNat k.toNat
      ((t.writeReg rr (tagged .int sig.1)).writeReg rs (tagged .int sig.2)).finish)

/-- Steps 1 and 2 of Verify: `total` (R290). -/
def verifyTotal (z r s : Nat) (Q : Point) : Point :=
  let si := invMod Config.N (s % Config.N)
  (scalarMul (z * si % Config.N) basePoint).add (scalarMul (r * si % Config.N) Q)

/-- Step 3 of Verify: `total` is affine and its abscissa is `r` (R290). -/
def signatureValid (z r s : Nat) (Q : Point) : Bool :=
  match verifyTotal z r s Q with
  | .identity => false
  | .affine x _ => decide (x = r)

/-- VERIFY (R290): a signature that does not verify gives VALID = 0 and no error. -/
def execVerify (rz rr rs : RegIdx) (pq : PtIdx) (s : State) : Host.Outcome State Fault Refusal :=
  guarded [regHeld 1 rz s, regHeld 2 rr s, regHeld 3 rs s, pointHeld 4 pq s, isInt 1 rz s, isInt 2 rr s, isInt 3 rs s] s
    (s.setValid (signatureValid (s.valOf rz) (s.valOf rr) (s.valOf rs) (s.point pq).pt)).finish

end Sys2Proof.Machine
end

