-- ==== Sys2Proof/Machine/FieldOps.lean ====
section
/-! DEFINITION. Field commands (41_field.md) and Montgomery commands (42_montgomery.md). -/

namespace Sys2Proof.Machine

open Sys2Proof

/-- The state after a two-source field command whose result is `op m a b` in the field of the operands (R148). -/
def fieldResult (op : Nat → Nat → Nat → Nat) (rd ra rb : RegIdx) (s : State) : State :=
  s.writeReg rd (tagged (s.tagOf ra) (op (s.tagOf ra).modulus (s.valOf ra) (s.valOf rb)))

/-- FADD (R141). -/
def execFadd (rd ra rb : RegIdx) (s : State) : Host.Outcome State Fault Refusal :=
  guarded (elementPair ra rb s) s (fieldResult addMod rd ra rb s).finish

/-- FSUB (R142). -/
def execFsub (rd ra rb : RegIdx) (s : State) : Host.Outcome State Fault Refusal :=
  guarded (elementPair ra rb s) s (fieldResult subMod rd ra rb s).finish

/-- FMUL (R143). -/
def execFmul (rd ra rb : RegIdx) (s : State) : Host.Outcome State Fault Refusal :=
  guarded (elementPair ra rb s) s (fieldResult mulMod rd ra rb s).finish

/-- FDIV (R144): a zero divisor gives 0 and sets DIVZ. -/
def execFdiv (rd ra rb : RegIdx) (s : State) : Host.Outcome State Fault Refusal :=
  guarded (elementPair ra rb s) s ((fieldResult divMod rd ra rb s).noteDivisor (s.valOf rb)).finish

/-- FINV (R145): the Fermat inverse; the operand 0 gives 0 and sets DIVZ. -/
def execFinv (rd ra : RegIdx) (s : State) : Host.Outcome State Fault Refusal :=
  guarded (elementOperand 2 ra s) s
    ((s.writeReg rd (tagged (s.tagOf ra) (invMod (s.tagOf ra).modulus (s.valOf ra)))).noteDivisor (s.valOf ra)).finish

/-- FPOW (R146): an element base and an integer exponent. -/
def execFpow (rd ra rb : RegIdx) (s : State) : Host.Outcome State Fault Refusal :=
  guarded [regHeld 2 ra s, regHeld 3 rb s, isElement 2 ra s, isInt 3 rb s] s
    (fieldResult fieldPow rd ra rb s).finish

/-- FEQ (R147): the second operand is of any kind, EMPTY included. -/
def execFeq (ra rb : RegIdx) (s : State) : Host.Outcome State Fault Refusal :=
  guarded (elementOperand 1 ra s) s (s.setEq (decide (s.reg rb = s.reg ra))).finish

/-- MMUL (R174): the raw Montgomery product. -/
def execMmul (rd ra rb : RegIdx) (s : State) : Host.Outcome State Fault Refusal :=
  guarded (elementPair ra rb s) s
    (s.writeReg rd (tagged (s.tagOf ra) (montProduct (s.tagOf ra) (s.valOf ra) (s.valOf rb)))).finish

/-- MTO (R175). -/
def execMto (rd ra : RegIdx) (s : State) : Host.Outcome State Fault Refusal :=
  guarded (elementOperand 2 ra s) s
    (s.writeReg rd (tagged (s.tagOf ra) (toMont (s.tagOf ra).modulus (s.valOf ra)))).finish

/-- MFROM (R176). -/
def execMfrom (rd ra : RegIdx) (s : State) : Host.Outcome State Fault Refusal :=
  guarded (elementOperand 2 ra s) s (s.writeReg rd (tagged (s.tagOf ra) (fromMont (s.tagOf ra) (s.valOf ra)))).finish

end Sys2Proof.Machine
end

