-- ==== Sys2Proof/Machine/Move.lean ====
section
/-! DEFINITION. Move and convert commands (40_move_convert.md). -/

namespace Sys2Proof.Machine

open Sys2Proof

/-- NOP (R120). -/
def execNop (s : State) : Host.Outcome State Fault Refusal := guarded [] s s.finish

/-- LDI (R121): `r[rd] <- (INT, zext_256(imm16))`. -/
def execLdi (rd : RegIdx) (imm16 : BitVec 16) (s : State) : Host.Outcome State Fault Refusal :=
  guarded [] s (s.writeReg rd (tagged .int imm16.toNat)).finish

/-- LDC (R122): `r[rd] <- (INT, CONST[idx])`. -/
def execLdc (rd : RegIdx) (idx : BitVec 8) (s : State) : Host.Outcome State Fault Refusal :=
  guarded [legalWord (.ldc rd idx)] s (s.writeReg rd (tagged .int (constStore idx.toNat))).finish

/-- MOV (R123): tag and value are copied. -/
def execMov (rd ra : RegIdx) (s : State) : Host.Outcome State Fault Refusal :=
  guarded [regHeld 2 ra s] s (s.writeReg rd (s.reg ra)).finish

/-- CLR (R124): `r[rd] <- (EMPTY, 0)`. -/
def execClr (rd : RegIdx) (s : State) : Host.Outcome State Fault Refusal :=
  guarded [] s (s.writeReg rd ⟨.empty, 0⟩).finish

/-- PMOV (R125). -/
def execPmov (pd pa : PtIdx) (s : State) : Host.Outcome State Fault Refusal :=
  guarded [pointHeld 2 pa s] s (s.writePoint pd (s.point pa)).finish

/-- PCLR (R126): `p[pd] <- (EMPTY, 0, 0)`. -/
def execPclr (pd : PtIdx) (s : State) : Host.Outcome State Fault Refusal :=
  guarded [] s (s.writePoint pd PointReg.nothing).finish

/-- FNEW (R127): the range-checked constructor of a field element. -/
def execFnew (rd ra : RegIdx) (m : FieldSel) (s : State) : Host.Outcome State Fault Refusal :=
  guarded (intOperand 2 ra s ++ [inRange 2 (decide (s.valOf ra < (fieldTag m).modulus))]) s
    (s.writeReg rd (tagged (fieldTag m) (s.valOf ra))).finish

/-- FINT (R128): the tag becomes INT, the value stays. -/
def execFint (rd ra : RegIdx) (s : State) : Host.Outcome State Fault Refusal :=
  guarded (elementOperand 2 ra s) s (s.writeReg rd (tagged .int (s.valOf ra))).finish

/-- IRED (R129): `r[rd] <- (FP or FN, r[ra].val mod M)`. -/
def execIred (rd ra : RegIdx) (m : FieldSel) (s : State) : Host.Outcome State Fault Refusal :=
  guarded (intOperand 2 ra s) s (s.writeReg rd (tagged (fieldTag m) (s.valOf ra % (fieldTag m).modulus))).finish

/-- ICMP (R130): EQ and LT of an unsigned comparison. -/
def execIcmp (ra rb : RegIdx) (s : State) : Host.Outcome State Fault Refusal :=
  guarded [regHeld 1 ra s, regHeld 2 rb s, isInt 1 ra s, isInt 2 rb s] s
    (s.setEqLt (decide (s.valOf ra = s.valOf rb)) (decide (s.valOf ra < s.valOf rb))).finish

end Sys2Proof.Machine
end

