-- ==== Sys2Proof/Machine/Points.lean ====
section
/-! DEFINITION. Point commands (43_point.md) and the scalar and secp256k1 commands (44_secp256k1_scalar.md). -/

namespace Sys2Proof.Machine

open Sys2Proof

/-- PNEW (R203): the curve-checked constructor of an affine point. -/
def execPnew (pd : PtIdx) (rx ry : RegIdx) (s : State) : Host.Outcome State Fault Refusal :=
  guarded [regHeld 2 rx s, regHeld 3 ry s, isElement 2 rx s, isElement 3 ry s, inFieldP 2 rx s, inFieldP 3 ry s,
      coordsOnCurve (s.valOf rx) (s.valOf ry)] s
    (s.writePoint pd (Point.affine (s.valOf rx) (s.valOf ry)).toReg).finish

/-- PINF (R204). -/
def execPinf (pd : PtIdx) (s : State) : Host.Outcome State Fault Refusal :=
  guarded [] s (s.writePoint pd Point.identity.toReg).finish

/-- PADD (R205). -/
def execPadd (pd pa pb : PtIdx) (s : State) : Host.Outcome State Fault Refusal :=
  guarded [pointHeld 2 pa s, pointHeld 3 pb s] s
    (s.writePoint pd ((s.point pa).pt.add (s.point pb).pt).toReg).finish

/-- PGETX (R206): the identity has no coordinate. -/
def execPgetx (rd : RegIdx) (pa : PtIdx) (s : State) : Host.Outcome State Fault Refusal :=
  guarded [pointHeld 2 pa s, hasCoords 2 pa s] s (s.writeReg rd ⟨.fp, (s.point pa).x⟩).finish

/-- PGETY (R207). -/
def execPgety (rd : RegIdx) (pa : PtIdx) (s : State) : Host.Outcome State Fault Refusal :=
  guarded [pointHeld 2 pa s, hasCoords 2 pa s] s (s.writeReg rd ⟨.fp, (s.point pa).y⟩).finish

/-- PEQ (R208): structural equality of point values. -/
def execPeq (pa pb : PtIdx) (s : State) : Host.Outcome State Fault Refusal :=
  guarded [pointHeld 1 pa s, pointHeld 2 pb s] s (s.setEq (decide ((s.point pa).pt = (s.point pb).pt))).finish

/-- PTEST (R209). -/
def execPtest (pa : PtIdx) (s : State) : Host.Outcome State Fault Refusal :=
  guarded [pointHeld 1 pa s] s (s.setInf (decide ((s.point pa).ptag = .identity))).finish

/-- PMUL (R243): `p[pd] <- k·p[pa]`. -/
def execPmul (pd : PtIdx) (rk : RegIdx) (pa : PtIdx) (s : State) : Host.Outcome State Fault Refusal :=
  guarded [regHeld 2 rk s, pointHeld 3 pa s, isInt 2 rk s] s
    (s.writePoint pd (scalarMul (s.valOf rk) (s.point pa).pt).toReg).finish

/-- PMULG (R244): `p[pd] <- k·G`. -/
def execPmulg (pd : PtIdx) (rk : RegIdx) (s : State) : Host.Outcome State Fault Refusal :=
  guarded (intOperand 2 rk s) s (s.writePoint pd (scalarMul (s.valOf rk) basePoint).toReg).finish

/-- FSQRT (R245): the square root candidate, untested. -/
def execFsqrt (rd ra : RegIdx) (s : State) : Host.Outcome State Fault Refusal :=
  guarded (elementPOperand 2 ra s) s (s.writeReg rd (tagged .fp (sqrtCandidate (s.valOf ra)))).finish

/-- PDECOMP (R246): the root of the wanted parity, RangeError when it would be `P - 0`, then the curve check. -/
def execPdecomp (pd : PtIdx) (rx : RegIdx) (odd : Bool) (s : State) : Host.Outcome State Fault Refusal :=
  let x := s.valOf rx
  let beta := sqrtCandidate (curveRhs x)
  let y := rootOfParity beta odd
  guarded (elementPOperand 2 rx s ++
      [inRange 2 (decide (beta % 2 = odd.toNat ∨ beta ≠ 0)), coordsOnCurve x y]) s
    (s.writePoint pd (Point.affine x y).toReg).finish

end Sys2Proof.Machine
end

