-- ==== Sys2Proof/Machine/Dispatch.lean ====
section
/-! DEFINITION. One arm per command (30_encoding.md R96): performing a command as one transition (20_memory.md R72). -/

namespace Sys2Proof.Machine

open Sys2Proof

/-- The transition of the core that performs the command `i` in the state `s`. -/
def exec (i : Instr) (s : State) : Host.Outcome State Fault Refusal :=
  match i with
  | .nop => Sys2Proof.Machine.execNop s
  | .ldi rd imm16 => Sys2Proof.Machine.execLdi rd imm16 s
  | .ldc rd idx => Sys2Proof.Machine.execLdc rd idx s
  | .mov rd ra => Sys2Proof.Machine.execMov rd ra s
  | .clr rd => Sys2Proof.Machine.execClr rd s
  | .pmov pd pa => Sys2Proof.Machine.execPmov pd pa s
  | .pclr pd => Sys2Proof.Machine.execPclr pd s
  | .fnew rd ra m => Sys2Proof.Machine.execFnew rd ra m s
  | .fint rd ra => Sys2Proof.Machine.execFint rd ra s
  | .ired rd ra m => Sys2Proof.Machine.execIred rd ra m s
  | .icmp ra rb => Sys2Proof.Machine.execIcmp ra rb s
  | .fadd rd ra rb => Sys2Proof.Machine.execFadd rd ra rb s
  | .fsub rd ra rb => Sys2Proof.Machine.execFsub rd ra rb s
  | .fmul rd ra rb => Sys2Proof.Machine.execFmul rd ra rb s
  | .fdiv rd ra rb => Sys2Proof.Machine.execFdiv rd ra rb s
  | .finv rd ra => Sys2Proof.Machine.execFinv rd ra s
  | .fpow rd ra rb => Sys2Proof.Machine.execFpow rd ra rb s
  | .feq ra rb => Sys2Proof.Machine.execFeq ra rb s
  | .mmul rd ra rb => Sys2Proof.Machine.execMmul rd ra rb s
  | .mto rd ra => Sys2Proof.Machine.execMto rd ra s
  | .mfrom rd ra => Sys2Proof.Machine.execMfrom rd ra s
  | .pnew pd rx ry => Sys2Proof.Machine.execPnew pd rx ry s
  | .pinf pd => Sys2Proof.Machine.execPinf pd s
  | .padd pd pa pb => Sys2Proof.Machine.execPadd pd pa pb s
  | .pgetx rd pa => Sys2Proof.Machine.execPgetx rd pa s
  | .pgety rd pa => Sys2Proof.Machine.execPgety rd pa s
  | .peq pa pb => Sys2Proof.Machine.execPeq pa pb s
  | .ptest pa => Sys2Proof.Machine.execPtest pa s
  | .pmul pd rk pa => Sys2Proof.Machine.execPmul pd rk pa s
  | .pmulg pd rk => Sys2Proof.Machine.execPmulg pd rk s
  | .fsqrt rd ra => Sys2Proof.Machine.execFsqrt rd ra s
  | .pdecomp pd rx odd => Sys2Proof.Machine.execPdecomp pd rx odd s
  | .keyld rs => Sys2Proof.Machine.execKeyld rs s
  | .keypub pd => Sys2Proof.Machine.execKeypub pd s
  | .keyclr => Sys2Proof.Machine.execKeyclr s
  | .nonce rd rz => Sys2Proof.Machine.execNonce rd rz s
  | .sign rr rs rz => Sys2Proof.Machine.execSign rr rs rz s
  | .verify rz rr rs pq => Sys2Proof.Machine.execVerify rz rr rs pq s

end Sys2Proof.Machine
end

