-- ==== Sys2Proof/Machine/Window.lean ====
section
/-! DEFINITION. The host window (20_memory.md R60 to R71, 10_state.md R40 to R47): where an offset leads, and what a host
read or write there does. -/

namespace Sys2Proof.Machine

open Sys2Proof

/-- What an aligned offset of the window names (R47, R61). -/
inductive Location where
  | id
  | ctrl
  | status
  | flags
  | err
  | ack
  | cmd
  | seq
  | fault
  | lastCmd
  /-- Word `w` of `r[i].val`, the most significant first (R66). -/
  | regWord (i : RegIdx) (w : Fin 8)
  | regTag (i : RegIdx)
  /-- Word `w` of `p[j].x` (R67). -/
  | ptX (j : PtIdx) (w : Fin 8)
  | ptY (j : PtIdx) (w : Fin 8)
  | ptTag (j : PtIdx)
  | unmapped
  deriving DecidableEq, Repr

/-- The control block `0x000` to `0x027`, by word number (R47). -/
def controlLocation : Nat → Location
  | 0 => .id
  | 1 => .ctrl
  | 2 => .status
  | 3 => .flags
  | 4 => .err
  | 5 => .ack
  | 6 => .cmd
  | 7 => .seq
  | 8 => .fault
  | 9 => .lastCmd
  | _ => .unmapped

/-- Word `k` of the window of `r[i]` (R61, R66). -/
def regLocation (i : RegIdx) (k : Nat) : Location :=
  if k < 8 then .regWord i (Fin.ofNat 8 k) else if k = 8 then .regTag i else .unmapped

/-- Word `k` of the window of `p[j]` (R61, R67). -/
def pointLocation (j : PtIdx) (k : Nat) : Location :=
  if k < 8 then .ptX j (Fin.ofNat 8 k)
  else if k < 16 then .ptY j (Fin.ofNat 8 (k - 8))
  else if k = 16 then .ptTag j else .unmapped

/-- The map of the window (R61). -/
def locate (off : Nat) : Location :=
  if off < 0x400 then controlLocation (off / 4)
  else if off < 0x800 then regLocation (Fin.ofNat 16 ((off - 0x400) / 0x40)) ((off - 0x400) % 0x40 / 4)
  else if off < 0xC00 then pointLocation (Fin.ofNat 8 ((off - 0x800) / 0x80)) ((off - 0x800) % 0x80 / 4)
  else .unmapped

/-- A well-formed access: 4 bytes, aligned, inside the window (R62, R64). -/
def accessWellFormed (off bytes : Nat) : Bool := decide (bytes = 4 ∧ off % 4 = 0 ∧ off < 0x1000)

/-- The register windows, mapped or not, which are closed while BUSY (R71). -/
def inRegisterWindow (off : Nat) : Bool := decide (0x400 ≤ off ∧ off < 0xC00)

/-- `FAULT.BUSERR <- 1` (R46). -/
def State.busError (s : State) : State := s.writeFault { s.fault with buserr := true }

/-- `FAULT.ACCV <- 1` (R46). -/
def State.accessViolation (s : State) : State := s.writeFault { s.fault with accv := true }

/-- `FAULT.CMDOVR <- 1` (R46). -/
def State.commandOverrun (s : State) : State := s.writeFault { s.fault with cmdovr := true }

/-- `v[255 - 32·w : 224 - 32·w]` (R66, R67). -/
def getWord (v : Val) (w : Fin 8) : Word := v.extractLsb' (224 - 32 * w.val) 32

/-- `v` with that field replaced by `d`, the other bits unchanged (R66). -/
def setWord (v : Val) (w : Fin 8) (d : Word) : Val :=
  (v &&& ~~~((0xFFFFFFFF#256) <<< (224 - 32 * w.val))) ||| ((d.setWidth 256) <<< (224 - 32 * w.val))

/-- The word a mapped location shows; write-only locations show 0; `none` where nothing is mapped (R62, R66, R67). -/
def State.readLocation (s : State) : Location → Option Word
  | .id => some Config.idWord
  | .ctrl => some s.ctrlWord
  | .status => some s.statusWord
  | .flags => some s.flagsWord
  | .err => some s.errWord
  | .ack => some 0
  | .cmd => some 0
  | .seq => some s.seq
  | .fault => some s.faultWord
  | .lastCmd => some s.lastCmd
  | .regWord i w => some (getWord (s.reg i).val w)
  | .regTag i => some (BitVec.ofNat 32 (s.tagOf i).code)
  | .ptX j w => some (getWord (s.point j).x w)
  | .ptY j w => some (getWord (s.point j).y w)
  | .ptTag j => some (BitVec.ofNat 32 (s.point j).ptag.code)
  | .unmapped => none

/-- `MemRead(off, bytes)`: the data returned and the state after (R62, R71). -/
def State.hostRead (s : State) (off bytes : Nat) : Word × State :=
  if accessWellFormed off bytes = false then (0, s.busError)
  else if inRegisterWindow off && decide (s.runState = .busy) then (0, s.accessViolation)
  else
    match s.readLocation (locate off) with
    | some w => (w, s)
    | none => (0, s.busError)

/-- A write to CTRL: the two enables; reserved bits are ignored (R41). -/
def State.writeCtrl (s : State) (d : Word) : State := { s with ctrl := ⟨d.getLsbD 0, d.getLsbD 1⟩ }

/-- ACK bit 0: `STATUS.DONE <- 0` (R44). -/
def State.ackDone (s : State) (d : Word) : State := if d.getLsbD 0 then { s with done := false } else s

/-- ACK bit 1: return from an error (R44, R358). -/
def State.ackError (s : State) (d : Word) : State := if d.getLsbD 1 then s.returnFromError else s

/-- ACK bit 2: `FLAGS.DIVZ <- 0` (R44). -/
def State.ackDivz (s : State) (d : Word) : State := if d.getLsbD 2 then s.clearDivz else s

/-- A write to ACK: three independent effects by the bits set; bits 31:3 are ignored (R44). -/
def State.writeAck (s : State) (d : Word) : State := ((s.ackDone d).ackError d).ackDivz d

/-- A write to CMD: accepted in IDLE, otherwise dropped with CMDOVR (R45, R70, R357). -/
def State.writeCmd (s : State) (d : Word) : State :=
  if s.runState = .idle then s.accept d else s.commandOverrun

/-- A write to word `w` of `r[i]`: the field is replaced and the tag becomes INT (R24, R66). -/
def State.writeRegWord (s : State) (i : RegIdx) (w : Fin 8) (d : Word) : State :=
  s.writeReg i ⟨.int, setWord (s.reg i).val w d⟩

/-- The effect of a well-formed write at a location; read-only and unmapped ones set BUSERR and change nothing else
(R63). -/
def State.writeLocation (s : State) (d : Word) : Location → State
  | .ctrl => s.writeCtrl d
  | .ack => s.writeAck d
  | .cmd => s.writeCmd d
  | .regWord i w => s.writeRegWord i w d
  | .id | .status | .flags | .err | .seq | .fault | .lastCmd | .regTag _ | .ptX _ _ | .ptY _ _ | .ptTag _
  | .unmapped => s.busError

/-- `MemWrite(off, bytes, d)` (R63, R71). -/
def State.hostWrite (s : State) (off bytes : Nat) (d : Word) : State :=
  if accessWellFormed off bytes = false then s.busError
  else if inRegisterWindow off && decide (s.runState = .busy) then s.accessViolation
  else s.writeLocation d (locate off)

end Sys2Proof.Machine
end

