-- ==== Sys2Proof/Machine/Fetch.lean ====
section
/-! DEFINITION. Who moves next and what the move is (00_scope.md R16, 20_memory.md R70 to R75): the head of the agenda
decides; with an empty agenda the core moves. The block fetches nothing (R77): the command is the pending word. -/

namespace Sys2Proof.Machine

open Sys2Proof

/-- What the next step is. -/
inductive NextMove where
  /-- The step ends in this state; no command is performed. -/
  | settles (t : State)
  /-- The core performs the command `i` in the state `t`. -/
  | performs (i : Instr) (t : State)
  /-- A state the spec gives no meaning to. -/
  | stops (r : Fault)
  deriving DecidableEq, Repr

/-- The core's turn: a pending legal word is performed, an illegal one ends in IllegalCommand(0); without a pending command
the core waits (R72, R98, R343, R51). -/
def coreMove (s : State) : NextMove :=
  match s.runState with
  | .idle => .settles s
  | .error => .settles s
  | .busy =>
    match s.pending with
    | none => .stops .busyWithoutCommand
    | some c =>
      match decode c with
      | .ok i => .performs i s
      | .error _ => .settles (s.raiseError illegalCommand)

/-- The core's turn while the reset input is asserted: nothing happens (R380, R382). -/
def coreTurnOf (s : State) : NextMove := if s.resetLine then .settles s else coreMove s

/-- A host read; while reset is asserted its result is a free value (R62, R381). -/
def readMove (s : State) (off bytes : Nat) : State :=
  if s.resetLine then s.answerFree
  else (s.hostRead off bytes).2.answer (s.hostRead off bytes).1

/-- A host write; while reset is asserted it leaves nothing behind (R63, R381). -/
def writeMove (s : State) (off bytes : Nat) (d : Word) : State :=
  if s.resetLine then s else s.hostWrite off bytes d

/-- One move of the agenda in the state `s` (from which the move is already taken). -/
def playMove (s : State) : Move → NextMove
  | .read off bytes => .settles (readMove s off bytes)
  | .write off bytes d => .settles (writeMove s off bytes d)
  | .assertReset => .settles s.assertReset
  | .releaseReset => .settles s.releaseReset
  | .provider a => .settles (s.setProvider a)
  | .coreTurn => coreTurnOf s

/-- The next move of the machine (R16, R75). -/
def nextMove (s : State) : NextMove :=
  match s.env.agenda with
  | [] => coreTurnOf s
  | m :: rest => playMove (s.withAgenda rest) m

/-- The word `w` stands as the accepted, pending command and the core is next to move (R70; log entry 5). -/
def State.placeCommand (s : State) (c : Word) : State :=
  ({ s with err := none, work := Work.zero, resetLine := false }.accept c).withAgenda (.coreTurn :: s.env.agenda)

end Sys2Proof.Machine
end

