-- ==== Sys2Proof/Machine/Step.lean ====
section
/-! DEFINITION. One step of the machine: one move of the host, of its environment, or of the core (00_scope.md R16). -/

namespace Sys2Proof.Machine

open Sys2Proof

/-- One step. -/
def step (s : State) : Host.Outcome State Fault Refusal :=
  match nextMove s with
  | .settles t => .next t
  | .performs i t => exec i t
  | .stops r => .fault r

/-- `s` with the command word `w` standing where the next step takes its command: as the word the host has just written
to CMD, with the core to move. Bits above `nbits` are 0. -/
def State.withFetchWord (s : State) (nbits w : Nat) : State := s.placeCommand (BitVec.ofNat 32 (w % 2 ^ nbits))

end Sys2Proof.Machine
end

