-- ==== Sys2Proof/Machine/Datapath.lean ====
section
/-! DEFINITION. The internal datapath (42_montgomery.md R172 to R182, 43_point.md R220 to R225) as functions of its own.
The commands are defined at the command level (00_scope.md R5); each unit here is a refinement that must return the same
value, and the obligations say so. -/

namespace Sys2Proof.Machine

open Sys2Proof

/-! ### The Montgomery multiplier -/

/-- `-m⁻¹ mod 2^256` of the field of a tag (R37, R172). -/
def Tag.mPrime : Tag → Nat
  | .fn => Config.mPrimeN
  | .fp | .int | .empty => Config.mPrimeP

/-- `R² mod m` of the field of a tag (R36, R175). -/
def Tag.radixSquared : Tag → Nat
  | .fn => Config.R2N
  | .fp | .int | .empty => Config.R2P

/-- The one conditional subtraction that ends a reduction (R172, R178). -/
def subOnce (m t : Nat) : Nat := if t ≥ m then t - m else t

/-- `REDC(T, m)` (R172). -/
def redc (m m' T : Nat) : Nat :=
  let q := T % Config.R * m' % Config.R
  subOnce m ((T + q * m) / Config.R)

/-- `MontMul(a, b, m) = REDC(a · b, m)` (R172). -/
def montMul (t : Tag) (a b : Nat) : Nat := redc t.modulus t.mPrime (a * b)

/-- The accumulator of the word-serial multiplier after `i` rounds of `w` bits (R173). -/
def wordSerialAcc (m m' w a b : Nat) : Nat → Nat
  | 0 => 0
  | i + 1 =>
    let t := wordSerialAcc m m' w a b i + a * (b / 2 ^ (w * i) % 2 ^ w)
    let q := t % 2 ^ w * (m' % 2 ^ w) % 2 ^ w
    (t + q * m) / 2 ^ w

/-- The word-serial Montgomery product for a word width `w` that divides 256 (R173). -/
def wordSerialMul (t : Tag) (w a b : Nat) : Nat :=
  subOnce t.modulus (wordSerialAcc t.modulus t.mPrime w a b (256 / w))

/-- FMUL as two Montgomery products (R177). -/
def mulViaMont (t : Tag) (a b : Nat) : Nat := montMul t (montMul t a b) t.radixSquared

/-- The adder: one 257-bit sum and one conditional correction (R178). -/
def adderAdd (m a b : Nat) : Nat := subOnce m (a + b)

/-- The subtractor: a difference and one conditional correction (R178). -/
def adderSub (m a b : Nat) : Nat := if b ≤ a then a - b else a + m - b

/-! ### The exponentiation sequencer -/

/-- Square-and-multiply on Montgomery forms (R179). -/
def montPowLoop (t : Tag) : Nat → Nat → Nat → Nat → Nat
  | 0, _, _, acc => acc
  | fuel + 1, b, e, acc => montPowLoop t fuel (montMul t b b) (e / 2) (if e % 2 = 1 then montMul t acc b else acc)

/-- Convert the base in, exponentiate, convert the result out (R179). -/
def montPow (t : Tag) (a e : Nat) : Nat :=
  montMul t (montPowLoop t 256 (montMul t a t.radixSquared) e (montMul t 1 t.radixSquared)) 1

/-! ### The inverse engine -/

/-- While `u` is even: halve `u`, and halve `x` modulo `m` (R180). -/
def halveWhileEven (m : Nat) : Nat → Nat → Nat → Nat × Nat
  | 0, u, x => (u, x)
  | fuel + 1, u, x =>
    if u % 2 = 0 then halveWhileEven m fuel (u / 2) (if x % 2 = 0 then x / 2 else (x + m) / 2) else (u, x)

/-- The outer loop of BinInv, with the bound of R180 on its rounds as fuel. -/
def binInvLoop (m : Nat) : Nat → Nat → Nat → Nat → Nat → Nat
  | 0, u, _, x1, x2 => if u = 1 then x1 % m else x2 % m
  | fuel + 1, u, v, x1, x2 =>
    if u = 1 then x1 % m
    else if v = 1 then x2 % m
    else
      let h1 := halveWhileEven m 256 u x1
      let h2 := halveWhileEven m 256 v x2
      if h1.1 ≥ h2.1 then binInvLoop m fuel (h1.1 - h2.1) h2.1 (subMod m h1.2 h2.2) h2.2
      else binInvLoop m fuel h1.1 (h2.1 - h1.1) h1.2 (subMod m h2.2 h1.2)

/-- `BinInv(a, m)`, with the bypass that returns 0 for 0 (R180). -/
def binInv (m a : Nat) : Nat := if a = 0 then 0 else binInvLoop m 513 a m 1 0

/-! ### The point-add pipeline -/

/-- A Jacobian triple of elements of the field of `P` (R220). -/
structure Jac where
  X : Nat
  Y : Nat
  Z : Nat
  deriving DecidableEq, Repr

/-- The triple of the identity (R221). -/
def Jac.identity : Jac := ⟨1, 1, 0⟩

/-- Affine to Jacobian (R221). -/
def Point.toJac : Point → Jac
  | .identity => Jac.identity
  | .affine x y => ⟨x, y, 1⟩

/-- Jacobian to affine: one inversion (R223). -/
def Jac.toAffine (j : Jac) : Point :=
  if j.Z = 0 then .identity
  else
    let zi := invMod Config.P j.Z
    .affine (j.X * zi * zi % Config.P) (j.Y * zi * zi * zi % Config.P)

/-- Jacobian doubling for `CURVE_A = 0` (R222). -/
def Jac.double (j : Jac) : Jac :=
  if j.Z = 0 ∨ j.Y = 0 then Jac.identity
  else
    let A := j.X * j.X % Config.P
    let B := j.Y * j.Y % Config.P
    let C := B * B % Config.P
    let D := 2 * subMod Config.P (subMod Config.P ((j.X + B) * (j.X + B) % Config.P) A) C % Config.P
    let E := 3 * A % Config.P
    let F := E * E % Config.P
    let X3 := subMod Config.P F (2 * D)
    ⟨X3, subMod Config.P (E * subMod Config.P D X3) (8 * C), 2 * j.Y * j.Z % Config.P⟩

/-- Jacobian addition with the conditional selector (R224). -/
def Jac.add (j k : Jac) : Jac :=
  if j.Z = 0 then k
  else if k.Z = 0 then j
  else
    let Z1Z1 := j.Z * j.Z % Config.P
    let Z2Z2 := k.Z * k.Z % Config.P
    let U1 := j.X * Z2Z2 % Config.P
    let U2 := k.X * Z1Z1 % Config.P
    let S1 := j.Y * k.Z * Z2Z2 % Config.P
    let S2 := k.Y * j.Z * Z1Z1 % Config.P
    let H := subMod Config.P U2 U1
    let r := 2 * subMod Config.P S2 S1 % Config.P
    if H = 0 then (if r = 0 then j.double else Jac.identity)
    else
      let I := 2 * H * (2 * H) % Config.P
      let J := H * I % Config.P
      let V := U1 * I % Config.P
      let X3 := subMod Config.P (subMod Config.P (r * r) J) (2 * V)
      ⟨X3, subMod Config.P (r * subMod Config.P V X3) (2 * S1 * J),
        subMod Config.P (subMod Config.P ((j.Z + k.Z) * (j.Z + k.Z)) Z1Z1) Z2Z2 * H % Config.P⟩

/-- The double-and-add loop of R241 in Jacobian form (R225, R247). -/
def jacScalarLoop : Nat → Nat → Jac → Jac → Jac
  | 0, _, _, res => res
  | fuel + 1, coef, cur, res =>
    if coef = 0 then res
    else jacScalarLoop fuel (coef / 2) (cur.add cur) (if coef % 2 = 1 then res.add cur else res)

/-- Scalar multiplication with one conversion in and one out (R225). -/
def jacScalarMul (k : Nat) (A : Point) : Point :=
  (jacScalarLoop 256 (k % Config.N) A.toJac Jac.identity).toAffine

end Sys2Proof.Machine
end

