-- ==== Sys2Proof/Machine/HostFormats.lean ====
section
/-! DEFINITION. The byte formats that host software makes of the block's results (49_host_encodings.md). They are outside the
block (00_scope.md R4): no command and no step uses this file. -/

namespace Sys2Proof.Machine

open Sys2Proof

/-- `int(b)`: the integer of a byte string, most significant byte first (R14). -/
def intOfBytes (b : List Byte) : Nat := b.foldl (fun n d => 256 * n + d.toNat) 0

/-- The four bytes of a window word, most significant first (R310). -/
def wordBytes (w : Word) : List Byte :=
  [w.extractLsb' 24 8, w.extractLsb' 16 8, w.extractLsb' 8 8, w.extractLsb' 0 8]

/-! ### SEC -/

/-- The compressed form of an affine point: parity byte and `x` (R311). -/
def secCompressed (x y : Val) : List Byte := (if y.getLsbD 0 then 0x03#8 else 0x02#8) :: be32 x

/-- The uncompressed form (R311). -/
def secUncompressed (x y : Val) : List Byte := 0x04#8 :: (be32 x ++ be32 y)

/-- FNEW and PNEW on two parsed coordinates, as the host issues them (R312). -/
def constructPoint (x y : Nat) : Except ErrorKind Point :=
  if x ≥ Config.P ∨ y ≥ Config.P then .error .rangeError
  else if onCurve x y then .ok (.affine x y) else .error .notOnCurve

/-- FNEW and PDECOMP on a parsed abscissa (R312, R246). -/
def decompress (x : Nat) (odd : Bool) : Except ErrorKind Point :=
  if x ≥ Config.P then .error .rangeError
  else
    let beta := sqrtCandidate (curveRhs x)
    if beta % 2 ≠ odd.toNat ∧ beta = 0 then .error .rangeError
    else if onCurve x (rootOfParity beta odd) then .ok (.affine x (rootOfParity beta odd)) else .error .notOnCurve

/-- Parse a SEC byte string; any other first byte or length is a FormatError of the host (R312, R334). -/
def secParse (b : List Byte) : Except ErrorKind Point :=
  match b with
  | [] => .error .formatError
  | h :: body =>
    if h = 0x04#8 ∧ body.length = 64 then constructPoint (intOfBytes (body.take 32)) (intOfBytes (body.drop 32))
    else if (h = 0x02#8 ∨ h = 0x03#8) ∧ body.length = 32 then decompress (intOfBytes body) (decide (h = 0x03#8))
    else .error .formatError

/-! ### DER -/

/-- The content bytes of a DER INTEGER: leading zero bytes stripped, one `0x00` put back if the high bit is set. The
document does not say what the integer 0 becomes; `zero` is the host's choice (R314, U8). -/
def derContent (zero : List Byte) (v : Val) : List Byte :=
  match (be32 v).dropWhile (fun b => decide (b = 0#8)) with
  | [] => zero
  | h :: t => if h.getLsbD 7 then 0x00#8 :: h :: t else h :: t

/-- One INTEGER: `0x02`, length, bytes (R314). -/
def derInteger (zero : List Byte) (v : Val) : List Byte :=
  0x02#8 :: BitVec.ofNat 8 (derContent zero v).length :: derContent zero v

/-- The SEQUENCE of `r` and `s` (R314). -/
def derEncode (zero : List Byte) (r s : Val) : List Byte :=
  let body := derInteger zero r ++ derInteger zero s
  0x30#8 :: BitVec.ofNat 8 body.length :: body

/-- One INTEGER off the front of a byte string (R315). DESIGN CHOICE (log entry 21): a length byte of `0x80` or more is read
as a plain count; the document mentions no long form (N13). -/
def derTakeInteger (b : List Byte) : Except ErrorKind (Nat × List Byte) :=
  match b with
  | tag :: len :: rest =>
    if tag = 0x02#8 ∧ len.toNat ≤ rest.length then .ok (intOfBytes (rest.take len.toNat), rest.drop len.toNat)
    else .error .formatError
  | _ => .error .formatError

/-- The inverse of the encoding; any structural mismatch is a FormatError (R315). DESIGN CHOICE (log entry 21): a length byte
of `0x80` or more is read as a plain count. -/
def derParse (b : List Byte) : Except ErrorKind (Nat × Nat) :=
  match b with
  | tag :: len :: body =>
    if tag = 0x30#8 ∧ len.toNat = body.length then do
      let (r, rest) ← derTakeInteger body
      let (s, left) ← derTakeInteger rest
      if left = [] then .ok (r, s) else .error .formatError
    else .error .formatError
  | _ => .error .formatError

/-! ### WIF, Base58Check, address; the alphabet, the prefixes and the digests are the host's (R317 to R321, U7) -/

/-- The payload of a WIF text: prefix, secret, and the suffix that hints at a compressed key (R317). -/
def wifPayload (pre : Byte) (secret : Val) (compressed : Bool) : List Byte :=
  pre :: be32 secret ++ (if compressed then [0x01#8] else [])

/-- The digits of `n` in base 58, most significant first; `fuel` bounds their number. -/
def base58Digits : Nat → Nat → List (Fin 58)
  | 0, _ => []
  | fuel + 1, n => if n = 0 then [] else base58Digits fuel (n / 58) ++ [Fin.ofNat 58 n]

/-- Base58 of a byte string: the character `1` for each leading zero byte, whatever the alphabet, then the digits of the
integer (R318). -/
def base58 (alphabet : Fin 58 → Char) (b : List Byte) : List Char :=
  ((b.takeWhile (fun d => decide (d = 0#8))).map fun _ => '1') ++
    (base58Digits (2 * b.length) (intOfBytes b)).map alphabet

/-- Base58Check: payload, then the first four bytes of its double hash, then Base58 of both (R318). -/
def base58Check (alphabet : Fin 58 → Char) (hash256 : List Byte → List Byte) (payload : List Byte) : List Char :=
  base58 alphabet (payload ++ (hash256 payload).take 4)

/-- `hash256`: the hash of the hash (R320). -/
def doubleHash (hash : List Byte → List Byte) (b : List Byte) : List Byte := hash (hash b)

/-- `hash160`: the secondary digest of the primary digest (R320). -/
def hash160 (hash second : List Byte → List Byte) (b : List Byte) : List Byte := second (hash b)

/-- The address of a SEC serialization (R321). -/
def address (alphabet : Fin 58 → Char) (hash second : List Byte → List Byte) (pre : Byte) (sec : List Byte) : List Char :=
  base58Check alphabet (doubleHash hash) (pre :: hash160 hash second sec)

/-! ### Varint -/

/-- `n` bytes of `v`, least significant first (R330). -/
def littleEndian (n v : Nat) : List Byte := (List.range n).map fun i => BitVec.ofNat 8 (v / 256 ^ i)

/-- Encode an integer by the smallest marker that fits; `2^64` and above is a RangeError of the host (R330). -/
def varintEncode (v : Nat) : Except ErrorKind (List Byte) :=
  if v < 0xFD then .ok [BitVec.ofNat 8 v]
  else if v < 2 ^ 16 then .ok (0xFD#8 :: littleEndian 2 v)
  else if v < 2 ^ 32 then .ok (0xFE#8 :: littleEndian 4 v)
  else if v < 2 ^ 64 then .ok (0xFF#8 :: littleEndian 8 v)
  else .error .rangeError

/-- The integer of little-endian bytes. -/
def intOfLittleEndian : List Byte → Nat
  | [] => 0
  | b :: bs => b.toNat + 256 * intOfLittleEndian bs

/-- Decode: the value and the bytes after it; too few bytes are a FormatError (R331, R334; log entry 19). -/
def varintDecode (b : List Byte) : Except ErrorKind (Nat × List Byte) :=
  match b with
  | [] => .error .formatError
  | h :: t =>
    let n := if h.toNat < 0xFD then 0 else if h = 0xFD#8 then 2 else if h = 0xFE#8 then 4 else 8
    if h.toNat < 0xFD then .ok (h.toNat, t)
    else if t.length < n then .error .formatError
    else .ok (intOfLittleEndian (t.take n), t.drop n)

end Sys2Proof.Machine
end

