-- ==== Sys2Proof/Safety.lean ====
section
/-! DEFINITION. What counts as a good state: the invariants the spec gives the registers (10_state.md R23, R27, R30, R32),
the relations between the control registers (R42, R43, R70, R350), the hidden state (R50) and the sequence of accesses
that did what the host meant (R46, R391). -/

namespace Sys2Proof.Machine

open Sys2Proof

/-- R23: EMPTY holds 0; an element is below its modulus. -/
abbrev ValReg.Ok (r : ValReg) : Prop :=
  (r.tag = .empty → r.val = 0) ∧ (r.tag = .fp → r.val.toNat < Config.P) ∧ (r.tag = .fn → r.val.toNat < Config.N)

/-- R27: an affine point has reduced coordinates on the curve; anything else has zero words. -/
abbrev PointReg.Ok (r : PointReg) : Prop :=
  (r.ptag = .affine → r.x.toNat < Config.P ∧ r.y.toNat < Config.P ∧ onCurve r.x.toNat r.y.toNat = true) ∧
  (r.ptag ≠ .affine → r.x = 0 ∧ r.y = 0)

/-- R30: a valid slot holds `1 ≤ secret < N` and `pub = secret·G`; an invalid one holds nothing. -/
abbrev KeySlot.Ok (k : KeySlot) : Prop :=
  (k.valid = true → (1 ≤ k.secret.toNat ∧ k.secret.toNat < Config.N) ∧
    k.pub = (scalarMul k.secret.toNat basePoint).toReg) ∧
  (k.valid = false → k.secret = 0 ∧ k.pub = PointReg.nothing)

/-- R23 for every value register. -/
abbrev State.RegsOk (s : State) : Prop := ∀ i : RegIdx, (s.reg i).Ok

/-- R27 for every point register. -/
abbrev State.PointsOk (s : State) : Prop := ∀ j : PtIdx, (s.point j).Ok

/-- R30 for the key slot. -/
abbrev State.KeyOk (s : State) : Prop := s.key.Ok

/-- R38, R42, R43, R70, R350: a command is pending exactly in BUSY, and it is the last one accepted; ERR records an error
exactly in ERROR; DONE is 0 outside IDLE. -/
abbrev State.ControlOk (s : State) : Prop :=
  (s.runState = .busy → s.pending = some s.lastCmd) ∧ (s.runState ≠ .busy → s.pending = none) ∧
  (s.runState = .error → s.err ≠ none) ∧ (s.runState ≠ .error → s.err = none) ∧
  (s.runState ≠ .idle → s.done = false)

/-- The hidden state of a nonce derivation in progress: the live buffers, and zero elsewhere (R48). -/
def Work.live (K V : Val) : Work := ⟨true, K, V, 0, 0, PointReg.nothing, 0, 0, 0, 0, 0, 0, 0, 0, 0⟩

/-- R48 to R50: the hidden state is zero, but for the live buffers of a nonce derivation in progress. -/
abbrev State.HiddenOk (s : State) : Prop :=
  (s.work.ratcheting = false → s.work = Work.zero) ∧
  (s.work.ratcheting = true → s.runState = .busy ∧ s.work = Work.live s.work.bufK s.work.bufV)

/-- R380: while reset is asserted the block is in its reset state. -/
abbrev State.ResetHeld (s : State) : Prop :=
  s.resetLine = true → s = { State.reset with resetLine := true, env := s.env }

/-- R391: every access so far did what the host meant. -/
abbrev State.AccessesClean (s : State) : Prop := s.fault = ⟨false, false, false⟩

end Sys2Proof.Machine
end

