-- ==== Sys2Proof/Certificates/Slice0/Obligations.lean ====
section
/-! DEFINITION. The statements for the provers. The first part writes the spec's own words down (the end of a command, its
checks, its words), with explicit record updates and plain integer arithmetic, apart from the machine's operations. -/

namespace Sys2Proof.Spec

open Sys2Proof Sys2Proof.Machine

/-! ### The end of a command -/

/-- R72, R50: STATE IDLE, DONE set, nothing pending, hidden state zero; `t` holds the writes of the command. -/
def completed (t : State) : State :=
  { t with runState := .idle, done := true, pending := none, work := Work.zero }

/-- R350, R50: STATE ERROR and the record; nothing else the host can see changes. -/
def errored (s : State) (e : ErrorRecord) : State :=
  { s with runState := .error, err := some e, pending := none, work := Work.zero }

/-- `r[i] <- (t, v)`. -/
def setReg (s : State) (i : RegIdx) (t : Tag) (v : Nat) : State :=
  { s with regs := s.regs.set i ⟨t, BitVec.ofNat 256 v⟩ }

/-- `p[j] <- (t, x, y)`. -/
def setPoint (s : State) (j : PtIdx) (t : PTag) (x y : Nat) : State :=
  { s with points := s.points.set j ⟨t, BitVec.ofNat 256 x, BitVec.ofNat 256 y⟩ }

/-- `p[j] <- A` for a point value. -/
def setPt (s : State) (j : PtIdx) : Point → State
  | .identity => setPoint s j .identity 0 0
  | .affine x y => setPoint s j .affine x y

/-- `M(t)` of R14, for the tag of an element. -/
def modulusOf (t : Tag) : Nat := if t = .fn then Config.N else Config.P

/-- The tag `m` selects (R95c). -/
def tagOfSel (m : FieldSel) : Tag := if m = .p then .fp else .fn

/-- The integer in `r[i]`. -/
def num (s : State) (i : RegIdx) : Nat := (s.reg i).val.toNat

/-! ### The words (R91, R94) -/

/-- A word by its fields, the opcode first. -/
def word (op f1 f2 f3 f4 imm8 : Nat) : Word :=
  BitVec.ofNat 8 op ++ BitVec.ofNat 4 f1 ++ BitVec.ofNat 4 f2 ++ BitVec.ofNat 4 f3 ++ BitVec.ofNat 4 f4 ++
    BitVec.ofNat 8 imm8

/-- A word of format RI. -/
def wordRI (op f1 : Nat) (imm16 : BitVec 16) : Word := BitVec.ofNat 8 op ++ BitVec.ofNat 4 f1 ++ 0#4 ++ imm16

/-! ### The checks (R343 to R353); each names the field it blames -/

/-- EmptyRegister(n). -/
def nonempty (s : State) (n : BitVec 4) (i : RegIdx) (rest : Option ErrorRecord) : Option ErrorRecord :=
  if (s.reg i).tag = .empty then some ⟨.emptyRegister, n⟩ else rest

/-- EmptyRegister(n) for a point register. -/
def nonemptyPt (s : State) (n : BitVec 4) (j : PtIdx) (rest : Option ErrorRecord) : Option ErrorRecord :=
  if (s.point j).ptag = .empty then some ⟨.emptyRegister, n⟩ else rest

/-- OperandTypeError(n) unless the tag is INT. -/
def integer (s : State) (n : BitVec 4) (i : RegIdx) (rest : Option ErrorRecord) : Option ErrorRecord :=
  if (s.reg i).tag ≠ .int then some ⟨.operandType, n⟩ else rest

/-- OperandTypeError(n) unless the tag is FP or FN. -/
def element (s : State) (n : BitVec 4) (i : RegIdx) (rest : Option ErrorRecord) : Option ErrorRecord :=
  if (s.reg i).tag ≠ .fp ∧ (s.reg i).tag ≠ .fn then some ⟨.operandType, n⟩ else rest

/-- DomainMismatchError(n) unless the tag is FP. -/
def inP (s : State) (n : BitVec 4) (i : RegIdx) (rest : Option ErrorRecord) : Option ErrorRecord :=
  if (s.reg i).tag ≠ .fp then some ⟨.domainMismatch, n⟩ else rest

/-- DomainMismatchError(n) unless the tags are equal. -/
def sameTag (s : State) (n : BitVec 4) (i k : RegIdx) (rest : Option ErrorRecord) : Option ErrorRecord :=
  if (s.reg i).tag ≠ (s.reg k).tag then some ⟨.domainMismatch, n⟩ else rest

/-- An error `e` unless `ok`. -/
def require (ok : Prop) [Decidable ok] (e : ErrorRecord) (rest : Option ErrorRecord) : Option ErrorRecord :=
  if ok then rest else some e

/-- R148: the checks (2) to (6) of the two-source field commands. -/
def pairChecks (s : State) (ra rb : RegIdx) : Option ErrorRecord :=
  nonempty s 2 ra <| nonempty s 3 rb <| element s 2 ra <| element s 3 rb <| sameTag s 3 ra rb none

/-- The word `w`, and no other, is the command `i`; performing `i` in `s` is the error the checks report, and else
completion with the writes of `t`. -/
def Performs (w : Word) (i : Instr) (s : State) (checks : Option ErrorRecord) (t : State) : Prop :=
  (∀ c, decode c = .ok i ↔ c = w) ∧
  (checks = none → exec i s = .next (completed t)) ∧
  (∀ e, checks = some e → exec i s = .next (errored s e))

/-! ### Arithmetic -/

/-- The twelve constants of R36, by their formulas. -/
def constants : List Nat :=
  [Config.P, Config.N, Config.GX, Config.GY, 0, 7, 2 ^ 512 % Config.P, 2 ^ 512 % Config.N, (Config.P + 1) / 4,
    Config.N / 2, 2 ^ 256 % Config.P, 2 ^ 256 % Config.N]

/-- `x mod P` for an integer expression of R205. -/
def modP (x : Int) : Nat := (x % (Config.P : Int)).toNat

/-- `a / b` on coordinates (R144, R200). -/
def quotP (a b : Int) : Int := a * (modP b : Int) ^ (Config.P - 2)

/-- `Add(A, B)` of R205, its six lines in order. -/
def add : Point → Point → Point
  | .identity, B => B
  | .affine x y, .identity => .affine x y
  | .affine x1 y1, .affine x2 y2 =>
    if x1 = x2 ∧ y1 ≠ y2 then .identity
    else if x1 ≠ x2 then
      let s : Int := modP (quotP ((y2 : Int) - y1) ((x2 : Int) - x1))
      let x3 : Int := modP (s * s - x1 - x2)
      .affine x3.toNat (modP (s * (x1 - x3) - y1))
    else if y1 = 0 then .identity
    else
      let s : Int := modP (quotP (3 * (x1 : Int) * x1 + Config.curveA) (2 * (y1 : Int)))
      let x3 : Int := modP (s * s - 2 * x1)
      .affine x3.toNat (modP (s * (x1 - x3) - y1))

/-- R201. -/
abbrev OnCurve (x y : Nat) : Prop := y * y % Config.P = (x * x * x + Config.curveA * x + Config.curveB) % Config.P

/-- A point value that a register can hold (R27). -/
def Valid : Point → Prop
  | .identity => True
  | .affine x y => x < Config.P ∧ y < Config.P ∧ OnCurve x y

/-! ### The nonce generator (R275 to R277) -/

/-- `z'` (R275). -/
def digest (z : Val) : Val := if z.toNat > Config.N then z - BitVec.ofNat 256 Config.N else z

/-- 32 bytes `0x01` (R276). -/
def ones : Val := 0x0101010101010101010101010101010101010101010101010101010101010101#256

/-- `K` and `V` after the two seeding rounds (R276). -/
def seeded (h : Val → List Byte → Val) (d z : Val) : Val × Val :=
  let tail := be32 d ++ be32 (digest z)
  let K1 := h 0 (be32 ones ++ 0x00#8 :: tail)
  let V1 := h K1 (be32 ones)
  let K2 := h K1 (be32 V1 ++ 0x01#8 :: tail)
  (K2, h K2 (be32 V1))

/-- `K` and `V` after "ratchet state once more" (R276). -/
def onceMore (h : Val → List Byte → Val) (c : Val × Val) : Val × Val :=
  let K := h c.1 (be32 c.2 ++ [0x00#8])
  (K, h K (be32 c.2))

/-- `K` and the candidate `V` after `j` refused candidates (R277). -/
def candidate (h : Val → List Byte → Val) (d z : Val) : Nat → Val × Val
  | 0 => ((seeded h d z).1, h (seeded h d z).1 (be32 (seeded h d z).2))
  | j + 1 =>
    let c := onceMore h (candidate h d z j)
    (c.1, h c.1 (be32 c.2))

/-- `1 ≤ cand and cand < N` (R277). -/
def Accepted (cand : Val) : Prop := 1 ≤ cand.toNat ∧ cand.toNat < Config.N

/-- The port has answered the requests `rs`, newest first. -/
def withRequests (s : State) (rs : List HmacRequest) : State :=
  { s with env := { s.env with hmac := { s.env.hmac with answered := rs ++ s.env.hmac.answered } } }

/-- The port has answered the requests `rs`, and the generator holds the live buffers `c` (R276, R48). -/
def goingOn (s : State) (rs : List HmacRequest) (c : Val × Val) : State :=
  { withRequests s rs with work := { s.work with ratcheting := true, bufK := c.1, bufV := c.2 } }

/-- `n` core turns of one command, each performing it in the state the last one left. -/
def turns (i : Instr) : Nat → State → Host.Outcome State Fault Refusal
  | 0, s => .next s
  | n + 1, s =>
    match exec i s with
    | .next t => turns i n t
    | .fault r => .fault r
    | .refused r => .refused r

/-- The checks of NONCE (R280). -/
def nonceChecks (s : State) (rz : RegIdx) : Option ErrorRecord :=
  require (s.key.valid = true) ⟨.noKey, 0⟩ <| nonempty s 2 rz <| integer s 2 rz none

/-- The checks of SIGN (R285). -/
def signChecks (s : State) (rz : RegIdx) : Option ErrorRecord :=
  require (s.key.valid = true) ⟨.noKey, 0⟩ <| nonempty s 3 rz <| integer s 3 rz none

/-- Steps 2 to 4 of R285: `r` and `s` from `z`, `d` and the nonce. -/
def signatureOf (z d k : Nat) : Nat × Nat :=
  let r := (scalarMul k basePoint).xCoord
  let s := (z + r * d) * k ^ (Config.N - 2) % Config.N
  (r, if s > Config.N / 2 then Config.N - s else s)

/-- Steps 1 to 3 of R290. -/
def Verifies (z r s : Nat) (Q : Point) : Prop :=
  let si := (s % Config.N) ^ (Config.N - 2) % Config.N
  ∃ x y, (scalarMul (z * si % Config.N) basePoint).add (scalarMul (r * si % Config.N) Q) = .affine x y ∧ x = r

/-! ### What the tables of the spec say of each command -/

/-- The value registers a command writes: the columns `d r` of R96. -/
def regDests : Instr → List RegIdx
  | .ldi rd _ | .ldc rd _ | .mov rd _ | .clr rd | .fnew rd _ _ | .fint rd _ | .ired rd _ _ => [rd]
  | .fadd rd _ _ | .fsub rd _ _ | .fmul rd _ _ | .fdiv rd _ _ | .finv rd _ | .fpow rd _ _ => [rd]
  | .mmul rd _ _ | .mto rd _ | .mfrom rd _ | .pgetx rd _ | .pgety rd _ | .fsqrt rd _ | .nonce rd _ => [rd]
  | .sign rr rs _ => [rr, rs]
  | .nop | .pmov _ _ | .pclr _ | .icmp _ _ | .feq _ _ | .pnew _ _ _ | .pinf _ | .padd _ _ _ | .peq _ _ | .ptest _ => []
  | .pmul _ _ _ | .pmulg _ _ | .pdecomp _ _ _ | .keyld _ | .keypub _ | .keyclr | .verify _ _ _ _ => []

/-- The point registers a command writes: the columns `d p` of R96. -/
def pointDests : Instr → List PtIdx
  | .pmov pd _ | .pclr pd | .pnew pd _ _ | .pinf pd | .padd pd _ _ | .pmul pd _ _ | .pmulg pd _ | .pdecomp pd _ _ => [pd]
  | .keypub pd => [pd]
  | .nop | .ldi _ _ | .ldc _ _ | .mov _ _ | .clr _ | .fnew _ _ _ | .fint _ _ | .ired _ _ _ | .icmp _ _ => []
  | .fadd _ _ _ | .fsub _ _ _ | .fmul _ _ _ | .fdiv _ _ _ | .finv _ _ | .fpow _ _ _ | .feq _ _ => []
  | .mmul _ _ _ | .mto _ _ | .mfrom _ _ | .pgetx _ _ | .pgety _ _ | .peq _ _ | .ptest _ | .fsqrt _ _ => []
  | .keyld _ | .keyclr | .nonce _ _ | .sign _ _ _ | .verify _ _ _ _ => []

/-- The row of R354: the errors a command can raise with their INFO values, IllegalCommand(0) apart. -/
def errorRow : Instr → List ErrorRecord
  | .nop | .ldi _ _ | .ldc _ _ | .clr _ | .pclr _ | .pinf _ | .keyclr => []
  | .mov _ _ | .pmov _ _ => [⟨.emptyRegister, 2⟩]
  | .fnew _ _ _ => [⟨.emptyRegister, 2⟩, ⟨.operandType, 2⟩, ⟨.rangeError, 2⟩]
  | .fint _ _ | .ired _ _ _ => [⟨.emptyRegister, 2⟩, ⟨.operandType, 2⟩]
  | .icmp _ _ => [⟨.emptyRegister, 1⟩, ⟨.emptyRegister, 2⟩, ⟨.operandType, 1⟩, ⟨.operandType, 2⟩]
  | .fadd _ _ _ | .fsub _ _ _ | .fmul _ _ _ | .fdiv _ _ _ | .mmul _ _ _ =>
    [⟨.emptyRegister, 2⟩, ⟨.emptyRegister, 3⟩, ⟨.operandType, 2⟩, ⟨.operandType, 3⟩, ⟨.domainMismatch, 3⟩]
  | .finv _ _ | .mto _ _ | .mfrom _ _ => [⟨.emptyRegister, 2⟩, ⟨.operandType, 2⟩]
  | .fpow _ _ _ => [⟨.emptyRegister, 2⟩, ⟨.emptyRegister, 3⟩, ⟨.operandType, 2⟩, ⟨.operandType, 3⟩]
  | .feq _ _ => [⟨.emptyRegister, 1⟩, ⟨.operandType, 1⟩]
  | .pnew _ _ _ =>
    [⟨.emptyRegister, 2⟩, ⟨.emptyRegister, 3⟩, ⟨.operandType, 2⟩, ⟨.operandType, 3⟩, ⟨.domainMismatch, 2⟩,
      ⟨.domainMismatch, 3⟩, ⟨.notOnCurve, 0⟩]
  | .padd _ _ _ => [⟨.emptyRegister, 2⟩, ⟨.emptyRegister, 3⟩]
  | .pgetx _ _ | .pgety _ _ => [⟨.emptyRegister, 2⟩, ⟨.identityCoordinate, 2⟩]
  | .peq _ _ => [⟨.emptyRegister, 1⟩, ⟨.emptyRegister, 2⟩]
  | .ptest _ => [⟨.emptyRegister, 1⟩]
  | .pmul _ _ _ => [⟨.emptyRegister, 2⟩, ⟨.emptyRegister, 3⟩, ⟨.operandType, 2⟩]
  | .pmulg _ _ => [⟨.emptyRegister, 2⟩, ⟨.operandType, 2⟩]
  | .fsqrt _ _ => [⟨.emptyRegister, 2⟩, ⟨.operandType, 2⟩, ⟨.domainMismatch, 2⟩]
  | .pdecomp _ _ _ =>
    [⟨.emptyRegister, 2⟩, ⟨.operandType, 2⟩, ⟨.domainMismatch, 2⟩, ⟨.rangeError, 2⟩, ⟨.notOnCurve, 0⟩]
  | .keyld _ => [⟨.emptyRegister, 1⟩, ⟨.operandType, 1⟩, ⟨.rangeError, 1⟩]
  | .keypub _ => [⟨.noKey, 0⟩]
  | .nonce _ _ => [⟨.emptyRegister, 2⟩, ⟨.operandType, 2⟩, ⟨.noKey, 0⟩]
  | .sign _ _ _ => [⟨.emptyRegister, 3⟩, ⟨.operandType, 3⟩, ⟨.noKey, 0⟩]
  | .verify _ _ _ _ =>
    [⟨.emptyRegister, 1⟩, ⟨.emptyRegister, 2⟩, ⟨.emptyRegister, 3⟩, ⟨.emptyRegister, 4⟩, ⟨.operandType, 1⟩,
      ⟨.operandType, 2⟩, ⟨.operandType, 3⟩]

/-- NONCE and SIGN, the two commands that reach the HMAC port (R81). -/
def DrawsNonce (i : Instr) : Prop := (∃ rd rz, i = .nonce rd rz) ∨ (∃ rr rs rz, i = .sign rr rs rz)

/-! ### The window -/

/-- FAULT with BUSERR set. -/
def busErr (s : State) : State := { s with fault := { s.fault with buserr := true } }

/-- FAULT with ACCV set. -/
def accViolated (s : State) : State := { s with fault := { s.fault with accv := true } }

/-- FAULT with CMDOVR set. -/
def overrun (s : State) : State := { s with fault := { s.fault with cmdovr := true } }

/-- The offsets that the map of R61 leaves unmapped, for an aligned offset inside the window. -/
def Unmapped (off : Nat) : Prop :=
  (0x028 ≤ off ∧ off < 0x400) ∨ (0x400 ≤ off ∧ off < 0x800 ∧ 0x24 ≤ (off - 0x400) % 0x40) ∨
  (0x800 ≤ off ∧ off < 0xC00 ∧ 0x44 ≤ (off - 0x800) % 0x80) ∨ (0xC00 ≤ off ∧ off < 0x1000)

/-- The read-only offsets of R63: ID, STATUS, FLAGS, ERR, SEQ, FAULT, LASTCMD, a TAG, or anything of a point window that
is mapped. -/
def ReadOnly (off : Nat) : Prop :=
  off ∈ [0x000, 0x008, 0x00C, 0x010, 0x01C, 0x020, 0x024] ∨
  (0x400 ≤ off ∧ off < 0x800 ∧ (off - 0x400) % 0x40 = 0x20) ∨
  (0x800 ≤ off ∧ off < 0xC00 ∧ (off - 0x800) % 0x80 ≤ 0x40)

/-- A well-formed access (R62). -/
def WellFormed (off n : Nat) : Prop := n = 4 ∧ off % 4 = 0 ∧ off < 0x1000

/-- The register windows (R71). -/
def InWindows (off : Nat) : Prop := 0x400 ≤ off ∧ off < 0xC00

/-- `v` with its word `w` replaced by `d`, bit by bit (R66). -/
def Replaced (v : Val) (w : Fin 8) (d : Word) (v' : Val) : Prop :=
  ∀ b : Nat, b < 256 →
    v'.getLsbD b = if 224 - 32 * w.val ≤ b ∧ b < 256 - 32 * w.val then d.getLsbD (b - (224 - 32 * w.val)) else v.getLsbD b

/-- Eight writes of the words of `v` to the window of `r[i]`, the most significant first (R66, R106). -/
def loadOperand (s : State) (i : RegIdx) (v : Val) : State :=
  (List.finRange 8).foldl
    (fun t w => t.hostWrite (0x400 + 0x40 * i.val + 4 * w.val) 4 (v.extractLsb' (224 - 32 * w.val) 32)) s

/-- The core is next to move; `t` is the state in which it moves. -/
def CoreTurn (s t : State) : Prop :=
  (s.env.agenda = [] ∧ t = s) ∨
  ∃ rest, s.env.agenda = .coreTurn :: rest ∧ t = { s with env := { s.env with agenda := rest } }

/-- The core is next to move on the pending word `c`; `t` is the state in which it moves. -/
def CoreMoves (s : State) (c : Word) (t : State) : Prop :=
  s.resetLine = false ∧ s.runState = .busy ∧ s.pending = some c ∧ CoreTurn s t

end Sys2Proof.Spec

namespace Sys2Proof.Spec

open Sys2Proof Sys2Proof.Machine

/-- The numbers of R341. -/
def errorCode : ErrorKind → Nat
  | .rangeError => 1
  | .domainMismatch => 2
  | .curveMismatch => 3
  | .notOnCurve => 4
  | .formatError => 5
  | .illegalCommand => 8
  | .emptyRegister => 9
  | .operandType => 10
  | .noKey => 11
  | .identityCoordinate => 12

/-- The word of ERR (R43). -/
def errBits (e : Option ErrorRecord) : Word :=
  match e with
  | none => 0
  | some r => 0#20 ++ r.info ++ BitVec.ofNat 8 (errorCode r.kind)

/-- STATUS.STATE (R42). -/
def stateBits : RunState → BitVec 2
  | .idle => 0
  | .busy => 1
  | .error => 2

/-- One bit. -/
def bit (b : Bool) : BitVec 1 := BitVec.ofBool b

/-- The invariants of the value registers, the point registers' coordinates and the cached public point (R23, and the
bounds of R27). -/
def Bounded (s : State) : Prop :=
  s.RegsOk ∧ (∀ j, (s.point j).x.toNat < Config.P ∧ (s.point j).y.toNat < Config.P) ∧
  s.key.pub.x.toNat < Config.P ∧ s.key.pub.y.toNat < Config.P

/-- The relations between the control registers, and the hidden state (Safety). -/
def Controlled (s : State) : Prop := s.ControlOk ∧ s.HiddenOk ∧ s.ResetHeld

/-- R23, R27, R30, R32: every register, and the key slot, holds what its tag says. -/
def Sound (s : State) : Prop := s.RegsOk ∧ s.PointsOk ∧ s.KeyOk ∧ (s.key.valid = true → s.key.pub.Ok)

/-- A Jacobian triple of elements of the field of `P` (R220). -/
def Triple (j : Jac) : Prop := j.X < Config.P ∧ j.Y < Config.P ∧ j.Z < Config.P

end Sys2Proof.Spec

open Sys2Proof Sys2Proof.Machine Sys2Proof.Spec

/-! ## Encoding -/

/-- R96: the words of a few commands, written out from the formats of R94 with the operands of the spec's examples. -/
def Obligations.ExampleWordsDecode : Prop :=
  decode 0x01500007#32 = .ok (.ldi 5 7) ∧ decode 0x02200002#32 = .ok (.ldc 2 2) ∧
  decode 0x03920000#32 = .ok (.mov 9 2) ∧ decode 0x05100000#32 = .ok (.pmov 1 0) ∧
  decode 0x10100001#32 = .ok (.fnew 1 0 .n) ∧ decode 0x13120000#32 = .ok (.icmp 1 2) ∧
  decode 0x23312000#32 = .ok (.fdiv 3 1 2) ∧ decode 0x31210000#32 = .ok (.mto 2 1) ∧
  decode 0x42201000#32 = .ok (.padd 2 0 1) ∧ decode 0x53010001#32 = .ok (.pdecomp 0 1 true) ∧
  decode 0x64231000#32 = .ok (.sign 2 3 1) ∧ decode 0x65123300#32 = .ok (.verify 1 2 3 3) ∧
  decode 0x41F00000#32 = .error .pointField ∧ decode 0x0000_0001#32 = .error .mustBeZero ∧
  decode 0x0220000C#32 = .error .constIndex ∧ decode 0x64221000#32 = .error .sameDestinations ∧
  decode 0x66000000#32 = .error .unknownOpcode

/-- R94, R96: the decoder gives back every legal command that the encoder wrote, with every operand. -/
def Obligations.DecodeOfEncode : Prop := ∀ i : Instr, i.wellFormed = true → decode (encode i) = .ok i

/-- R97, R100: a word the decoder accepts is a legal command, and is the only word of it; so no must-be-zero bit, no top bit
of a point field, no other index and no equal destinations get through. -/
def Obligations.EncodeOfDecode : Prop :=
  ∀ (c : Word) (i : Instr), decode c = .ok i → i.wellFormed = true ∧ encode i = c

/-! ## The move and convert families -/

/-- R120, R121, R123 to R126, R204, R274: the commands that write a register, or the key slot, without arithmetic. -/
def Obligations.MoveCommands : Prop :=
  ∀ (s : State) (rd ra : RegIdx) (pd pa : PtIdx) (imm16 : BitVec 16),
    Performs (word 0x00 0 0 0 0 0) .nop s none s ∧
    Performs (wordRI 0x01 rd imm16) (.ldi rd imm16) s none (setReg s rd .int imm16.toNat) ∧
    Performs (word 0x03 rd ra 0 0 0) (.mov rd ra) s (nonempty s 2 ra none)
      { s with regs := s.regs.set rd (s.reg ra) } ∧
    Performs (word 0x04 rd 0 0 0 0) (.clr rd) s none (setReg s rd .empty 0) ∧
    Performs (word 0x05 pd pa 0 0 0) (.pmov pd pa) s (nonemptyPt s 2 pa none)
      { s with points := s.points.set pd (s.point pa) } ∧
    Performs (word 0x06 pd 0 0 0 0) (.pclr pd) s none (setPoint s pd .empty 0 0) ∧
    Performs (word 0x41 pd 0 0 0 0) (.pinf pd) s none (setPoint s pd .identity 0 0) ∧
    Performs (word 0x62 0 0 0 0 0) .keyclr s none { s with key := ⟨false, 0, ⟨.empty, 0, 0⟩⟩ }

/-- R122, R36: LDC and the constant store; an index of 12 or more makes the word illegal. -/
def Obligations.LoadConstant : Prop :=
  ∀ (s : State) (rd : RegIdx) (idx : BitVec 8),
    (idx.toNat ≤ 11 →
      Performs (word 0x02 rd 0 0 0 idx.toNat) (.ldc rd idx) s none (setReg s rd .int (constants.getD idx.toNat 0))) ∧
    (12 ≤ idx.toNat → ∃ e, decode (word 0x02 rd 0 0 0 idx.toNat) = .error e)

/-- R127, R128, R129: FNEW constructs an element, FINT reads it as an integer, IRED reduces an integer. -/
def Obligations.Conversions : Prop :=
  ∀ (s : State) (rd ra : RegIdx) (m : FieldSel),
    Performs (word 0x10 rd ra 0 0 (if m = .p then 0 else 1)) (.fnew rd ra m) s
      (nonempty s 2 ra <| integer s 2 ra <| require (num s ra < modulusOf (tagOfSel m)) ⟨.rangeError, 2⟩ none)
      (setReg s rd (tagOfSel m) (num s ra)) ∧
    Performs (word 0x11 rd ra 0 0 0) (.fint rd ra) s (nonempty s 2 ra <| element s 2 ra none)
      (setReg s rd .int (num s ra)) ∧
    Performs (word 0x12 rd ra 0 0 (if m = .p then 0 else 1)) (.ired rd ra m) s
      (nonempty s 2 ra <| integer s 2 ra none)
      (setReg s rd (tagOfSel m) (num s ra % modulusOf (tagOfSel m)))

/-- R130, R147: the two comparisons of value registers; each writes its own flags and leaves the others. -/
def Obligations.RegisterComparisons : Prop :=
  ∀ (s : State) (ra rb : RegIdx),
    Performs (word 0x13 ra rb 0 0 0) (.icmp ra rb) s
      (nonempty s 1 ra <| nonempty s 2 rb <| integer s 1 ra <| integer s 2 rb none)
      { s with flags := { s.flags with eq := decide (num s ra = num s rb), lt := decide (num s ra < num s rb) } } ∧
    Performs (word 0x26 ra rb 0 0 0) (.feq ra rb) s (nonempty s 1 ra <| element s 1 ra none)
      { s with flags := { s.flags with
          eq := decide ((s.reg rb).tag = (s.reg ra).tag ∧ num s rb = num s ra) } }

/-! ## The field and Montgomery families -/

/-- R141, R142, R143, R148: sum, difference and product in the field of the operands. -/
def Obligations.FieldArithmetic : Prop :=
  ∀ (s : State) (rd ra rb : RegIdx),
    let t := (s.reg ra).tag
    let m := modulusOf t
    Performs (word 0x20 rd ra rb 0 0) (.fadd rd ra rb) s (pairChecks s ra rb)
      (setReg s rd t ((num s ra + num s rb) % m)) ∧
    Performs (word 0x21 rd ra rb 0 0) (.fsub rd ra rb) s (pairChecks s ra rb)
      (setReg s rd t (((num s ra : Int) - num s rb) % m).toNat) ∧
    Performs (word 0x22 rd ra rb 0 0) (.fmul rd ra rb) s (pairChecks s ra rb)
      (setReg s rd t (num s ra * num s rb % m))

/-- R144, R145: the Fermat quotient and inverse; a zero divisor gives 0 and sets DIVZ, which is never cleared here. -/
def Obligations.FieldDivision : Prop :=
  ∀ (s : State) (rd ra rb : RegIdx),
    let t := (s.reg ra).tag
    let m := modulusOf t
    Performs (word 0x23 rd ra rb 0 0) (.fdiv rd ra rb) s (pairChecks s ra rb)
      { setReg s rd t (num s ra * (num s rb ^ (m - 2) % m) % m) with
        flags := { s.flags with divz := s.flags.divz || decide (num s rb = 0) } } ∧
    Performs (word 0x24 rd ra 0 0 0) (.finv rd ra) s (nonempty s 2 ra <| element s 2 ra none)
      { setReg s rd t (num s ra ^ (m - 2) % m) with
        flags := { s.flags with divz := s.flags.divz || decide (num s ra = 0) } }

/-- R146: FPOW reduces the exponent modulo `m - 1`, then exponentiates, with `a^0 = 1` for every `a`. -/
def Obligations.FieldPower : Prop :=
  ∀ (s : State) (rd ra rb : RegIdx),
    let t := (s.reg ra).tag
    let m := modulusOf t
    Performs (word 0x25 rd ra rb 0 0) (.fpow rd ra rb) s
      (nonempty s 2 ra <| nonempty s 3 rb <| element s 2 ra <| integer s 3 rb none)
      (setReg s rd t (num s ra ^ (num s rb % (m - 1)) % m))

/-- R170, R174, R175, R176: each Montgomery command writes the one residue that the radix `2^256` characterises. -/
def Obligations.MontgomeryCommands : Prop :=
  ∀ (s : State) (rd ra rb : RegIdx),
    let t := (s.reg ra).tag
    let m := modulusOf t
    (∃ x, x < m ∧ x * 2 ^ 256 % m = num s ra * num s rb % m ∧
      Performs (word 0x30 rd ra rb 0 0) (.mmul rd ra rb) s (pairChecks s ra rb) (setReg s rd t x)) ∧
    Performs (word 0x31 rd ra 0 0 0) (.mto rd ra) s (nonempty s 2 ra <| element s 2 ra none)
      (setReg s rd t (num s ra * 2 ^ 256 % m)) ∧
    (∃ x, x < m ∧ x * 2 ^ 256 % m = num s ra % m ∧
      Performs (word 0x32 rd ra 0 0 0) (.mfrom rd ra) s (nonempty s 2 ra <| element s 2 ra none) (setReg s rd t x))

/-! ## The point and scalar families -/

/-- R203: PNEW, with the curve check of R201. -/
def Obligations.PointConstruction : Prop :=
  ∀ (s : State) (pd : PtIdx) (rx ry : RegIdx),
    Performs (word 0x40 pd rx ry 0 0) (.pnew pd rx ry) s
      (nonempty s 2 rx <| nonempty s 3 ry <| element s 2 rx <| element s 3 ry <| inP s 2 rx <| inP s 3 ry <|
        require (OnCurve (num s rx) (num s ry)) ⟨.notOnCurve, 0⟩ none)
      (setPoint s pd .affine (num s rx) (num s ry))

/-- R205: PADD writes the sum that the six lines of `Add` give. -/
def Obligations.PointAddition : Prop :=
  ∀ (s : State) (pd pa pb : PtIdx),
    Performs (word 0x42 pd pa pb 0 0) (.padd pd pa pb) s (nonemptyPt s 2 pa <| nonemptyPt s 3 pb none)
      (setPt s pd (Spec.add (s.point pa).pt (s.point pb).pt))

/-- R206, R207, R208, R209: PGETX and PGETY read a coordinate, which the identity has not; PEQ compares point values and
PTEST tests for the identity, each writing one flag. -/
def Obligations.PointReads : Prop :=
  ∀ (s : State) (rd : RegIdx) (pa pb : PtIdx),
    let coordinate := nonemptyPt s 2 pa <| require ((s.point pa).ptag = .affine) ⟨.identityCoordinate, 2⟩ none
    Performs (word 0x43 rd pa 0 0 0) (.pgetx rd pa) s coordinate (setReg s rd .fp (s.point pa).x.toNat) ∧
    Performs (word 0x44 rd pa 0 0 0) (.pgety rd pa) s coordinate (setReg s rd .fp (s.point pa).y.toNat) ∧
    Performs (word 0x45 pa pb 0 0 0) (.peq pa pb) s (nonemptyPt s 1 pa <| nonemptyPt s 2 pb none)
      { s with flags := { s.flags with
          eq := decide (((s.point pa).ptag = .identity ∧ (s.point pb).ptag = .identity) ∨
            ((s.point pa).ptag = .affine ∧ (s.point pb).ptag = .affine ∧ (s.point pa).x = (s.point pb).x ∧
              (s.point pa).y = (s.point pb).y)) } } ∧
    Performs (word 0x46 pa 0 0 0 0) (.ptest pa) s (nonemptyPt s 1 pa none)
      { s with flags := { s.flags with inf := decide ((s.point pa).ptag = .identity) } }

/-- R241: `ScalarMul` is the loop over the bits of `k mod N`, the lowest first, with a running sum that starts at the
identity. -/
def Obligations.ScalarLoop : Prop :=
  ∃ loop : Nat → Point → Point → Point,
    (∀ cur res, loop 0 cur res = res) ∧
    (∀ coef cur res, coef ≠ 0 →
      loop coef cur res = loop (coef / 2) (cur.add cur) (if coef % 2 = 1 then res.add cur else res)) ∧
    ∀ k A, scalarMul k A = loop (k % Config.N) A .identity

/-- R243, R244: PMUL and PMULG take any 256-bit integer as scalar. -/
def Obligations.ScalarMultiplication : Prop :=
  ∀ (s : State) (pd : PtIdx) (rk : RegIdx) (pa : PtIdx),
    Performs (word 0x50 pd rk pa 0 0) (.pmul pd rk pa) s
      (nonempty s 2 rk <| nonemptyPt s 3 pa <| integer s 2 rk none)
      (setPt s pd (scalarMul (num s rk) (s.point pa).pt)) ∧
    Performs (word 0x51 pd rk 0 0 0) (.pmulg pd rk) s (nonempty s 2 rk <| integer s 2 rk none)
      (setPt s pd (scalarMul (num s rk) (.affine Config.GX Config.GY)))

/-- R245: FSQRT writes `v^((P+1)/4)`; its square is `v` for a square and `P - v` for any other `v`. -/
def Obligations.SquareRoot : Prop :=
  ∀ (s : State) (rd ra : RegIdx),
    let v := num s ra
    let w := v ^ ((Config.P + 1) / 4) % Config.P
    Performs (word 0x52 rd ra 0 0 0) (.fsqrt rd ra) s (nonempty s 2 ra <| element s 2 ra <| inP s 2 ra none)
      (setReg s rd .fp w) ∧
    (v < Config.P → (∃ u, u * u % Config.P = v) → w * w % Config.P = v) ∧
    (v < Config.P → (¬ ∃ u, u * u % Config.P = v) → w * w % Config.P = Config.P - v)

/-- R246: PDECOMP recovers the point with the given parity, or reports RangeError or NotOnCurveError. -/
def Obligations.PointRecovery : Prop :=
  ∀ (s : State) (pd : PtIdx) (rx : RegIdx) (odd : Bool),
    let x := num s rx
    let alpha := (x * x * x + Config.curveA * x + Config.curveB) % Config.P
    let beta := alpha ^ ((Config.P + 1) / 4) % Config.P
    let par := if odd then 1 else 0
    let y := if beta % 2 = par then beta else Config.P - beta
    Performs (word 0x53 pd rx 0 0 par) (.pdecomp pd rx odd) s
      (nonempty s 2 rx <| element s 2 rx <| inP s 2 rx <|
        require (beta % 2 = par ∨ beta ≠ 0) ⟨.rangeError, 2⟩ <|
        require (y * y % Config.P = alpha) ⟨.notOnCurve, 0⟩ none)
      (setPoint s pd .affine x y)

/-! ## The ECDSA family -/

/-- R272, R273: KEYLD derives and caches the public point, KEYPUB copies it out. -/
def Obligations.KeySlotCommands : Prop :=
  ∀ (s : State) (rs : RegIdx) (pd : PtIdx),
    Performs (word 0x60 rs 0 0 0 0) (.keyld rs) s
      (nonempty s 1 rs <| integer s 1 rs <| require (1 ≤ num s rs ∧ num s rs < Config.N) ⟨.rangeError, 1⟩ none)
      { s with key := ⟨true, (s.reg rs).val, (scalarMul (num s rs) (.affine Config.GX Config.GY)).toReg⟩ } ∧
    Performs (word 0x61 pd 0 0 0 0) (.keypub pd) s (require (s.key.valid = true) ⟨.noKey, 0⟩ none)
      { s with points := s.points.set pd s.key.pub }

/-- R280 with the first candidate of R277: NONCE writes the accepted candidate after five requests; a refused candidate
leaves it BUSY with its ratchet, and a silent provider leaves it as it is (R83, R283; log entries 2 and 3). -/
def Obligations.NonceCommand : Prop :=
  ∀ (s : State) (rd rz : RegIdx),
    let k := (candidate s.hmac256 s.key.secret (s.reg rz).val 0).2
    (∀ c, decode c = .ok (.nonce rd rz) ↔ c = word 0x63 rd rz 0 0 0) ∧
    (∀ e, nonceChecks s rz = some e → exec (.nonce rd rz) s = .next (errored s e)) ∧
    (nonceChecks s rz = none → s.env.hmac.answering = true → s.work.ratcheting = false → Accepted k →
      ∃ rs, rs.length = 5 ∧
        exec (.nonce rd rz) s = .next (completed (setReg (withRequests s rs) rd .int k.toNat))) ∧
    (nonceChecks s rz = none → s.env.hmac.answering = true → s.work.ratcheting = false → ¬ Accepted k →
      ∃ rs, rs.length = 7 ∧
        exec (.nonce rd rz) s =
          .next (goingOn s rs (onceMore s.hmac256 (candidate s.hmac256 s.key.secret (s.reg rz).val 0)))) ∧
    (nonceChecks s rz = none → s.env.hmac.answering = false → exec (.nonce rd rz) s = .next s)

/-- R277, R276, R275: NONCE ends in its `j+1`-st turn with the first accepted candidate, after `5 + 3·j` requests; while every
candidate so far is refused it stays pending, with the ratcheted buffers (R283; one candidate a turn is log entry 3). -/
def Obligations.NonceLoop : Prop :=
  ∀ (s : State) (rd rz : RegIdx) (j : Nat),
    let cand := candidate s.hmac256 s.key.secret (s.reg rz).val
    nonceChecks s rz = none → s.env.hmac.answering = true → s.work = Work.zero → (∀ i, i < j → ¬ Accepted (cand i).2) →
    (Accepted (cand j).2 →
      ∃ rs, rs.length = 5 + 3 * j ∧
        turns (.nonce rd rz) (j + 1) s =
          .next (completed (setReg (withRequests s rs) rd .int (cand j).2.toNat))) ∧
    (¬ Accepted (cand j).2 →
      ∃ rs, rs.length = 7 + 3 * j ∧
        turns (.nonce rd rz) (j + 1) s = .next (goingOn s rs (onceMore s.hmac256 (cand j))))

/-- R275, R278: the generator depends on the digest only through `z'`, so for `z` and `z + N` the machine seeds, draws and
ratchets alike, and a turn of NONCE on either does the same, the digest register apart. -/
def Obligations.NonceOfReducedDigest : Prop :=
  ∀ z z' : Val, 1 ≤ z.toNat → z'.toNat = z.toNat + Config.N →
    (∀ (h : Val → List Byte → Val) (d : Val),
      (∀ w, turnCandidate h d z w = turnCandidate h d z' w) ∧ ∀ n, ratchetAt h d z n = ratchetAt h d z' n) ∧
    ∀ (s : State) (rd rz : RegIdx), s.reg rz = ⟨.int, z⟩ →
      ∃ t u, exec (.nonce rd rz) s = .next t ∧ exec (.nonce rd rz) (s.writeReg rz ⟨.int, z'⟩) = .next u ∧
        u = { t with regs := u.regs } ∧ (∀ k, k ≠ rz → u.reg k = t.reg k) ∧
        (s.runState = .busy → t.runState = .idle → u.reg rd = t.reg rd)

/-- R285, R276, R277: SIGN writes `r` and the low `s` in its `j+1`-st turn, after `5 + 3·j` requests, with the first accepted
candidate; a refused candidate leaves it BUSY with its ratchet, and a silent provider leaves it as it is (R83, R283; log
entries 2 and 3). Equal destinations are an illegal term. -/
def Obligations.SignCommand : Prop :=
  ∀ (s : State) (rr rs rz : RegIdx),
    let cand := candidate s.hmac256 s.key.secret (s.reg rz).val
    let signed (t : State) (k : Val) :=
      setReg (setReg t rr .int (signatureOf (num s rz) s.key.secret.toNat k.toNat).1) rs .int
        (signatureOf (num s rz) s.key.secret.toNat k.toNat).2
    (rr = rs → (∀ c, decode c ≠ .ok (.sign rr rs rz)) ∧
      exec (.sign rr rs rz) s = .next (errored s ⟨.illegalCommand, 0⟩)) ∧
    (rr ≠ rs → (∀ c, decode c = .ok (.sign rr rs rz) ↔ c = word 0x64 rr rs rz 0 0) ∧
      (∀ e, signChecks s rz = some e → exec (.sign rr rs rz) s = .next (errored s e)) ∧
      (signChecks s rz = none → s.env.hmac.answering = true → s.work.ratcheting = false → Accepted (cand 0).2 →
        ∃ q, q.length = 5 ∧ exec (.sign rr rs rz) s = .next (completed (signed (withRequests s q) (cand 0).2))) ∧
      (signChecks s rz = none → s.env.hmac.answering = true → s.work.ratcheting = false → ¬ Accepted (cand 0).2 →
        ∃ q, q.length = 7 ∧ exec (.sign rr rs rz) s = .next (goingOn s q (onceMore s.hmac256 (cand 0)))) ∧
      (signChecks s rz = none → s.env.hmac.answering = false → exec (.sign rr rs rz) s = .next s) ∧
      ∀ j, signChecks s rz = none → s.env.hmac.answering = true → s.work = Work.zero →
        (∀ i, i < j → ¬ Accepted (cand i).2) →
        (Accepted (cand j).2 →
          ∃ q, q.length = 5 + 3 * j ∧
            turns (.sign rr rs rz) (j + 1) s = .next (completed (signed (withRequests s q) (cand j).2))) ∧
        (¬ Accepted (cand j).2 →
          ∃ q, q.length = 7 + 3 * j ∧
            turns (.sign rr rs rz) (j + 1) s = .next (goingOn s q (onceMore s.hmac256 (cand j)))))

/-- R279, R285(d), R286: what NONCE writes is an integer at least 1 and below `N`; what SIGN writes are two integers, the
first below `P` and the second at most `N div 2`. -/
def Obligations.NonceAndSignatureRanges : Prop :=
  (∀ (s t : State) (rd rz : RegIdx),
    s.runState = .busy → exec (.nonce rd rz) s = .next t → t.runState = .idle →
    (t.reg rd).tag = .int ∧ 1 ≤ (t.reg rd).val.toNat ∧ (t.reg rd).val.toNat < Config.N) ∧
  ∀ (s t : State) (rr rs rz : RegIdx),
    s.runState = .busy → exec (.sign rr rs rz) s = .next t → t.runState = .idle →
    (t.reg rr).tag = .int ∧ (t.reg rs).tag = .int ∧ (t.reg rr).val.toNat < Config.P ∧
    (t.reg rs).val.toNat ≤ Config.N / 2

/-- R290: VERIFY writes VALID and never reports a signature that does not verify as an error. -/
def Obligations.VerifyCommand : Prop :=
  ∀ (s : State) (rz rr rs : RegIdx) (pq : PtIdx) (ok : Bool),
    (ok = true ↔ Verifies (num s rz) (num s rr) (num s rs) (s.point pq).pt) →
    Performs (word 0x65 rz rr rs pq 0) (.verify rz rr rs pq) s
      (nonempty s 1 rz <| nonempty s 2 rr <| nonempty s 3 rs <| nonemptyPt s 4 pq <|
        integer s 1 rz <| integer s 2 rr <| integer s 3 rs none)
      { s with flags := { s.flags with valid := ok } }

/-- R292: a signature made with any nonce verifies under the public point of its key, unless its `s` is 0. -/
def Obligations.SignatureVerifies : Prop :=
  ∀ z d k : Nat, 1 ≤ d → d < Config.N → 1 ≤ k → k < Config.N → (signatureOf z d k).2 ≠ 0 →
    Verifies z (signatureOf z d k).1 (signatureOf z d k).2 (scalarMul d basePoint)

/-! ## What no command does -/

/-- R340, R350, R354, R342: a command ends in an error only with a record of its row of the matrix (or IllegalCommand(0) for
an illegal term), and the error leaves everything else as it was. -/
def Obligations.ErrorsArePrecise : Prop :=
  ∀ (i : Instr) (s t : State), s.runState = .busy → exec i s = .next t → t.runState = .error →
    ∃ e, t = errored s e ∧ (e ∈ errorRow i ∨ (i.wellFormed = false ∧ e = ⟨.illegalCommand, 0⟩))

/-- R401, R72: the 36 commands other than NONCE and SIGN end, from every state, in one turn: done or in error. -/
def Obligations.CommandsEnd : Prop :=
  ∀ (i : Instr) (s : State), ¬ DrawsNonce i →
    ∃ t, exec i s = .next t ∧ t.pending = none ∧ t.work = Work.zero ∧
      ((t.runState = .idle ∧ t.done = true ∧ t.err = s.err) ∨ (t.runState = .error ∧ t.done = s.done ∧ t.err ≠ none))

/-- R96, R17, R24, R270: a command writes the registers its row marks as destinations, and neither CTRL, SEQ, LASTCMD,
FAULT, the reset line, the host's agenda and answers, nor another register; only KEYLD and KEYCLR write the key slot. -/
def Obligations.CommandFrame : Prop :=
  ∀ (i : Instr) (s t : State), exec i s = .next t →
    (∀ k : RegIdx, k ∉ regDests i → t.reg k = s.reg k) ∧ (∀ j : PtIdx, j ∉ pointDests i → t.point j = s.point j) ∧
    t.ctrl = s.ctrl ∧ t.seq = s.seq ∧ t.lastCmd = s.lastCmd ∧ t.fault = s.fault ∧ t.resetLine = s.resetLine ∧
    t.env.agenda = s.env.agenda ∧ t.env.answers = s.env.answers ∧ t.env.freeCount = s.env.freeCount ∧
    t.env.hmac.table = s.env.hmac.table ∧ t.env.hmac.answering = s.env.hmac.answering ∧
    (t.key = s.key ∨ (∃ r, i = .keyld r) ∨ i = .keyclr)

/-- R33: each flag is written only by the commands of its row, DIVZ is only set by a command, and a command that ends in an
error writes none. -/
def Obligations.FlagWriters : Prop :=
  ∀ (i : Instr) (s t : State), exec i s = .next t →
    (t.flags.eq = s.flags.eq ∨ (∃ a b, i = .icmp a b ∨ i = .feq a b) ∨ ∃ a b, i = .peq a b) ∧
    (t.flags.lt = s.flags.lt ∨ ∃ a b, i = .icmp a b) ∧
    (t.flags.inf = s.flags.inf ∨ ∃ a, i = .ptest a) ∧
    (t.flags.valid = s.flags.valid ∨ ∃ z r q p, i = .verify z r q p) ∧
    (t.flags.divz = s.flags.divz ∨ (t.flags.divz = true ∧ ((∃ d a b, i = .fdiv d a b) ∨ ∃ d a, i = .finv d a))) ∧
    (s.runState = .busy → t.runState = .error → t.flags = s.flags)

/-- R80, R81: only NONCE and SIGN issue HMAC requests, each with a message of 32, 33 or 97 bytes. -/
def Obligations.HmacRequestShapes : Prop :=
  ∀ (i : Instr) (s t : State), exec i s = .next t →
    ∃ rs, t.env.hmac.answered = rs ++ s.env.hmac.answered ∧ (rs ≠ [] → DrawsNonce i) ∧
      ∀ q ∈ rs, q.msg.length = 32 ∨ q.msg.length = 33 ∨ q.msg.length = 97

/-- R31, R82, R49, R270: what a host read returns depends neither on the secret and its public point, nor on the hidden
state, the pending word or the HMAC port; and of two states that differ only in the secret, every command but NONCE and
SIGN makes two states that differ only in the secret. -/
def Obligations.SecretStaysHidden : Prop :=
  (∀ (s : State) (d : Val) (pub : PointReg) (w : Work) (p : Option Word) (v : Env) (off n : Nat),
    ({ s with key := ⟨s.key.valid, d, pub⟩, work := w, pending := p, env := v }.hostRead off n).1 =
      (s.hostRead off n).1) ∧
  ∀ (i : Instr) (s : State) (d : Val), ¬ DrawsNonce i →
    ∃ t u, exec i s = .next t ∧ exec i { s with key := { s.key with secret := d } } = .next u ∧
      u = { t with key := { t.key with secret := u.key.secret } }

/-! ## The host window -/

/-- R62, R40 to R46, R33, R38, R39: what the ten control offsets show, in every state. -/
def Obligations.ControlReads : Prop :=
  ∀ s : State,
    s.hostRead 0x000 4 = (0x4D4D4D07#32, s) ∧
    s.hostRead 0x004 4 = (0#30 ++ bit s.ctrl.ieErr ++ bit s.ctrl.ieDone, s) ∧
    s.hostRead 0x008 4 = (0#28 ++ bit s.key.valid ++ bit s.done ++ stateBits s.runState, s) ∧
    s.hostRead 0x00C 4 =
      (0#27 ++ bit s.flags.divz ++ bit s.flags.valid ++ bit s.flags.inf ++ bit s.flags.lt ++ bit s.flags.eq, s) ∧
    s.hostRead 0x010 4 = (errBits s.err, s) ∧
    s.hostRead 0x014 4 = (0, s) ∧ s.hostRead 0x018 4 = (0, s) ∧ s.hostRead 0x01C 4 = (s.seq, s) ∧
    s.hostRead 0x020 4 = (0#29 ++ bit s.fault.buserr ++ bit s.fault.accv ++ bit s.fault.cmdovr, s) ∧
    s.hostRead 0x024 4 = (s.lastCmd, s)

/-- R66, R67: what the register windows show while they are open, the most significant word first. -/
def Obligations.RegisterReads : Prop :=
  ∀ (s : State) (i : RegIdx) (j : PtIdx) (w : Fin 8), s.runState ≠ .busy →
    s.hostRead (0x400 + 0x40 * i.val + 4 * w.val) 4 = ((s.reg i).val.extractLsb' (224 - 32 * w.val) 32, s) ∧
    s.hostRead (0x400 + 0x40 * i.val + 0x20) 4 =
      (match (s.reg i).tag with | .empty => 0 | .int => 1 | .fp => 2 | .fn => 3, s) ∧
    s.hostRead (0x800 + 0x80 * j.val + 4 * w.val) 4 = ((s.point j).x.extractLsb' (224 - 32 * w.val) 32, s) ∧
    s.hostRead (0x800 + 0x80 * j.val + 0x20 + 4 * w.val) 4 =
      ((s.point j).y.extractLsb' (224 - 32 * w.val) 32, s) ∧
    s.hostRead (0x800 + 0x80 * j.val + 0x40) 4 =
      (match (s.point j).ptag with | .empty => 0 | .identity => 1 | .affine => 2, s)

/-- R71, R62 to R65: an access that is not well formed, one to a closed register window, one to an unmapped offset, and a
write to a read-only offset set their FAULT bit and do nothing else; the BUSY test comes before the last two. That an access
both not well formed and inside a closed window sets BUSERR alone is the model's reading (log entry 9). -/
def Obligations.RefusedAccesses : Prop :=
  ∀ (s : State) (off n : Nat) (d : Word),
    (¬ WellFormed off n → s.hostRead off n = (0, busErr s) ∧ s.hostWrite off n d = busErr s) ∧
    (WellFormed off n → InWindows off → s.runState = .busy →
      s.hostRead off n = (0, accViolated s) ∧ s.hostWrite off n d = accViolated s) ∧
    (WellFormed off n → (InWindows off → s.runState ≠ .busy) → Unmapped off →
      s.hostRead off n = (0, busErr s) ∧ s.hostWrite off n d = busErr s) ∧
    (WellFormed off n → (InWindows off → s.runState ≠ .busy) → ReadOnly off → s.hostWrite off n d = busErr s)

/-- R41, R44, R45, R70, R357, R358: a write to CTRL stores the two enables, one to ACK has up to three effects by the bits
set, one to CMD is accepted in IDLE and dropped with CMDOVR in BUSY and ERROR. -/
def Obligations.ControlWrites : Prop :=
  ∀ (s : State) (d : Word),
    s.hostWrite 0x004 4 d = { s with ctrl := ⟨d.getLsbD 0, d.getLsbD 1⟩ } ∧
    s.hostWrite 0x014 4 d =
      { s with
        done := s.done && !d.getLsbD 0
        runState := if d.getLsbD 1 = true ∧ s.runState = .error then .idle else s.runState
        err := if d.getLsbD 1 = true ∧ s.runState = .error then none else s.err
        flags := { s.flags with divz := s.flags.divz && !d.getLsbD 2 } } ∧
    (s.runState = .idle → s.hostWrite 0x018 4 d =
      { s with runState := .busy, done := false, seq := s.seq + 1, lastCmd := d, pending := some d }) ∧
    (s.runState ≠ .idle → s.hostWrite 0x018 4 d = overrun s)

/-- R24, R66: a write to a word of `r[i]` replaces that word, keeps the others, and makes the tag INT. -/
def Obligations.RegisterWrites : Prop :=
  ∀ (s : State) (i : RegIdx) (w : Fin 8) (d : Word), s.runState ≠ .busy →
    ∃ v, Replaced (s.reg i).val w d v ∧
      s.hostWrite (0x400 + 0x40 * i.val + 4 * w.val) 4 d = { s with regs := s.regs.set i ⟨.int, v⟩ }

/-- R66, R106: eight word writes load a 256-bit operand, whatever the register held, and change nothing else. -/
def Obligations.OperandLoad : Prop :=
  ∀ (s : State) (i : RegIdx) (v : Val), s.runState ≠ .busy →
    loadOperand s i v = { s with regs := s.regs.set i ⟨.int, v⟩ }

/-! ## The machine -/

/-- R72: when the core moves on a pending legal word, the step is the command it decodes to. When the core moves is the
model's own plan, the agenda (log entry 4). -/
def Obligations.StepRunsTheCommand : Prop :=
  ∀ (s t : State) (c : Word) (i : Instr), CoreMoves s c t → decode c = .ok i → step s = exec i t

/-- R98, R343: when the core moves (log entry 4) on a word that is the word of no legal command, the step is
IllegalCommand(0), and nothing else changes. -/
def Obligations.IllegalWordsAreErrors : Prop :=
  ∀ (s t : State) (c : Word), CoreMoves s c t → (∀ i : Instr, i.wellFormed = true → encode i ≠ c) →
    step s = .next (errored t ⟨.illegalCommand, 0⟩)

/-- R16, R75: with the reset line low, a step whose next move is the host's is exactly that access, in every state; the
agenda of moves and the log of answers are the model's own (log entries 4 and 8). -/
def Obligations.StepMakesTheAccess : Prop :=
  ∀ (s : State) (rest : List Move), s.resetLine = false →
    let u : State := { s with env := { s.env with agenda := rest } }
    (∀ off n, s.env.agenda = .read off n :: rest →
      step s = .next { (u.hostRead off n).2 with
        env := { (u.hostRead off n).2.env with answers := (u.hostRead off n).1 :: s.env.answers } }) ∧
    (∀ off n d, s.env.agenda = .write off n d :: rest → step s = .next (u.hostWrite off n d))

/-- R72, R51: a core turn, from an empty agenda or at its head (log entry 4), does nothing in IDLE, in ERROR, or while reset is
asserted; and a state that is BUSY with no pending word, to which the spec gives no meaning, is where the model stops (log
entry 11). -/
def Obligations.CoreAtRest : Prop :=
  ∀ s t : State, CoreTurn s t →
    (s.resetLine = true ∨ s.runState ≠ .busy → step s = .next t) ∧
    (s.resetLine = false → s.runState = .busy → s.pending = none → step s = .fault .busyWithoutCommand)

/-- R51, R380, R382, R383: asserting reset in any state gives every piece of state its reset value; that reset is a move of
the agenda is the model's own (log entries 4 and 6). -/
def Obligations.ResetFromAnywhere : Prop :=
  ∀ (s : State) (rest : List Move), s.env.agenda = .assertReset :: rest →
    ∃ t, step s = .next t ∧ (∀ i, t.reg i = ⟨.empty, 0⟩) ∧ (∀ j, t.point j = ⟨.empty, 0, 0⟩) ∧
      t.key = ⟨false, 0, ⟨.empty, 0, 0⟩⟩ ∧ t.flags = ⟨false, false, false, false, false⟩ ∧ t.ctrl = ⟨false, false⟩ ∧
      t.runState = .idle ∧ t.done = false ∧ t.err = none ∧ t.seq = 0 ∧ t.lastCmd = 0 ∧ t.fault = ⟨false, false, false⟩ ∧
      t.pending = none ∧ t.work = Work.zero ∧ t.irq = false

/-- R360: `irq` is the level the spec's formula gives; acknowledging, clearing the enables, accepting a command and reset bring
it down. -/
def Obligations.InterruptLevel : Prop :=
  ∀ s : State,
    (s.irq = true ↔ (s.ctrl.ieDone = true ∧ s.done = true) ∨ (s.ctrl.ieErr = true ∧ s.runState = .error)) ∧
    (s.hostWrite 0x014 4 3).irq = false ∧ (s.hostWrite 0x004 4 0).irq = false ∧
    (s.runState = .idle → ∀ c, (s.hostWrite 0x018 4 c).irq = false) ∧ s.assertReset.irq = false

/-- R38, R39: SEQ and LASTCMD change only when a command is accepted, SEQ then by one; or when reset is asserted (the
agenda of moves is the model's own, log entry 4). -/
def Obligations.SeqCountsCommands : Prop :=
  ∀ s t : State, step s = .next t →
    (t.seq = s.seq ∧ t.lastCmd = s.lastCmd) ∨ s.env.agenda.head? = some .assertReset ∨
    (s.resetLine = false ∧ s.runState = .idle ∧ s.env.agenda.head? = some (.write 0x018 4 t.lastCmd) ∧
      t.seq = s.seq + 1 ∧ t.pending = some t.lastCmd ∧ t.runState = .busy)

/-- R46, R391: a FAULT bit, once set, stays set until reset is asserted. -/
def Obligations.FaultIsSticky : Prop :=
  ∀ s t : State, step s = .next t → s.env.agenda.head? ≠ some .assertReset →
    (s.fault.cmdovr = true → t.fault.cmdovr = true) ∧ (s.fault.accv = true → t.fault.accv = true) ∧
    (s.fault.buserr = true → t.fault.buserr = true)

/-! ## Invariants -/

/-- R51: the reset state is sound, bounded and controlled. -/
def Obligations.ResetKeepsTheInvariants : Prop := Sound State.reset ∧ Bounded State.reset ∧ Controlled State.reset

/-- R23: every step keeps the values of the registers reduced, and the coordinates they can be read from. -/
def Obligations.StepKeepsValuesReduced : Prop := ∀ s t : State, Bounded s → step s = .next t → Bounded t

/-- R42, R43, R50, R70, R72, R350, R380: from every state in which STATE, DONE, ERR, the pending word, the hidden state and
the reset line are related as the spec says, the machine answers a next state, and that state is such a state again. -/
def Obligations.StepKeepsControl : Prop := ∀ s : State, Controlled s → ∃ t, step s = .next t ∧ Controlled t

/-- R23, R27, R30, R32, R211: every step keeps every register, and the key slot, what its tag says it is; in particular every
point that a register holds stays on the curve. -/
def Obligations.StepKeepsPointsOnCurve : Prop := ∀ s t : State, Sound s → step s = .next t → Sound t

/-! ## Laws of the arithmetic -/

/-- R149, R153: FSUB undoes FADD; FMUL by FINV gives 1; FDIV writes what FINV and then FMUL write, and sets DIVZ in the same
case: all on the registers of the machine. -/
def Obligations.FieldLaws : Prop :=
  ∀ (s t u : State) (a b c d : RegIdx), (s.reg a).Ok → (s.reg b).Ok → (s.reg a).tag = .fp ∨ (s.reg a).tag = .fn →
    (s.reg b).tag = (s.reg a).tag →
    (c ≠ b → exec (.fadd c a b) s = .next t → exec (.fsub d c b) t = .next u → u.reg d = s.reg a) ∧
    (c ≠ a → num s a ≠ 0 → exec (.finv c a) s = .next t → exec (.fmul d a c) t = .next u →
      u.reg d = ⟨(s.reg a).tag, 1⟩) ∧
    ∀ v w x : State, c ≠ a → exec (.fdiv d a b) s = .next v → exec (.finv c b) s = .next w →
      exec (.fmul d a c) w = .next x → v.reg d = x.reg d ∧ v.flags = x.flags

/-- R172, R177, R178, R179: Montgomery reduction returns the reduced `T·R⁻¹`, FMUL is two Montgomery products, the adder and
the subtractor give sum and difference, in Montgomery form too, and the exponentiation sequencer gives the power. -/
def Obligations.MontgomeryReduction : Prop :=
  ∀ t : Tag,
    (∀ T, T < t.modulus * 2 ^ 256 →
      redc t.modulus t.mPrime T < t.modulus ∧ redc t.modulus t.mPrime T * 2 ^ 256 % t.modulus = T % t.modulus) ∧
    ∀ a b, a < t.modulus → b < t.modulus →
      mulViaMont t a b = a * b % t.modulus ∧
      adderAdd t.modulus a b = (a + b) % t.modulus ∧
      (adderSub t.modulus a b : Int) = ((a : Int) - b) % t.modulus ∧
      toMont t.modulus (adderAdd t.modulus a b) = adderAdd t.modulus (toMont t.modulus a) (toMont t.modulus b) ∧
      toMont t.modulus (adderSub t.modulus a b) = adderSub t.modulus (toMont t.modulus a) (toMont t.modulus b) ∧
      ∀ e, e < 2 ^ 256 → montPow t a e = a ^ e % t.modulus

/-- R173: the word-serial multiplier gives the Montgomery product for every word width that divides 256. -/
def Obligations.WordSerialMultiplier : Prop :=
  ∀ (t : Tag) (w a b : Nat), 0 < w → w ∣ 256 → a < t.modulus → b < t.modulus → wordSerialMul t w a b = montMul t a b

/-- R180: the binary extended-GCD engine gives the Fermat value within its bound on rounds, 0 included. -/
def Obligations.InverseEngine : Prop := ∀ (t : Tag) (a : Nat), a < t.modulus → binInv t.modulus a = a ^ (t.modulus - 2) % t.modulus

/-- R202: 7 is no square and -7 no cube modulo `P`, so that no point of the curve has a zero coordinate. -/
def Obligations.NoZeroCoordinate : Prop :=
  (¬ ∃ u : Nat, u * u % Config.P = 7) ∧ (¬ ∃ u : Nat, u * u * u % Config.P = Config.P - 7) ∧
  ∀ x y : Nat, x < Config.P → y < Config.P → OnCurve x y → x ≠ 0 ∧ y ≠ 0

/-- R210, R211: addition is commutative, has the identity, and stays on the curve. -/
def Obligations.AdditionLaws : Prop :=
  ∀ A B : Point, Valid A → Valid B →
    A.add B = B.add A ∧ A.add .identity = A ∧ Point.identity.add A = A ∧ Valid (A.add B)

/-- R248: a scalar counts modulo `N`; 0 and `N` give the identity, 1 gives the point; `N - 1` gives the opposite of any affine
point of the curve, `G` among them, whose sum with `G` is the identity. -/
def Obligations.ScalarFacts : Prop :=
  (∀ (k : Nat) (A : Point), scalarMul (k + Config.N) A = scalarMul k A ∧ scalarMul 0 A = .identity ∧
    scalarMul Config.N A = .identity ∧ scalarMul 1 A = A) ∧
  (∀ x y : Nat, Valid (.affine x y) → scalarMul (Config.N - 1) (.affine x y) = .affine x (Config.P - y)) ∧
  (scalarMul (Config.N - 1) basePoint).add basePoint = .identity

/-- R249: recovering the ordinate from the abscissa and the parity of a point on the curve gives the point. -/
def Obligations.RecoveryRoundTrip : Prop :=
  ∀ (s t : State) (pd pa : PtIdx) (rx : RegIdx), s.PointsOk → (s.point pa).ptag = .affine →
    s.reg rx = ⟨.fp, (s.point pa).x⟩ → exec (.pdecomp pd rx ((s.point pa).y.getLsbD 0)) s = .next t →
    t.point pd = s.point pa

/-- R221 to R225, R247: the Jacobian pipeline gives the affine sum, on any triples that stand for the points, and the
double-and-add loop in Jacobian form, converted once at each end, gives the scalar multiple. -/
def Obligations.JacobianPipeline : Prop :=
  (∀ j k : Jac, Triple j → Triple k → (j.add k).toAffine = j.toAffine.add k.toAffine) ∧
  (∀ x y : Nat, x < Config.P → y < Config.P → (Point.affine x y).toJac.toAffine = .affine x y) ∧
  Point.identity.toJac.toAffine = .identity ∧
  (∀ k x y : Nat, x < Config.P → y < Config.P →
    jacScalarMul k (.affine x y) = scalarMul k (.affine x y)) ∧
  ∀ k : Nat, jacScalarMul k .identity = scalarMul k .identity

/-! ## Host software (outside the block, log entry 19) -/

/-- R330, R331: a varint decodes to its integer and the bytes after it, and takes 1, 3, 5 or 9 bytes; `2^64` is refused. -/
def Obligations.VarintRoundTrip : Prop :=
  ∀ (v : Nat) (rest : List Byte),
    (v < 2 ^ 64 → ∃ b, varintEncode v = .ok b ∧ b.length ∈ [1, 3, 5, 9] ∧ varintDecode (b ++ rest) = .ok (v, rest)) ∧
    (2 ^ 64 ≤ v → varintEncode v = .error .rangeError)
end

