-- ==== Sys2Proof/Laws/Field.lean ====
section
/-! SUPPORT. The field arithmetic: ranges, exponentiation as a power, and the constants the field depends on. -/

namespace Sys2Proof.Machine

open Sys2Proof

theorem Config.P_pos : 0 < Config.P := by decide
theorem Config.N_pos : 0 < Config.N := by decide
theorem Config.N_lt_P : Config.N < Config.P := by decide
theorem Config.P_lt : Config.P < 2 ^ 256 := by decide
theorem Config.N_lt : Config.N < 2 ^ 256 := by decide
theorem Config.two_N : 2 ^ 256 < 2 * Config.N := by decide

theorem Tag.modulus_pos (t : Tag) : 0 < t.modulus := by cases t <;> decide
theorem Tag.modulus_lt (t : Tag) : t.modulus < 2 ^ 256 := by cases t <;> decide
theorem Tag.modulus_gt_two (t : Tag) : 2 < t.modulus := by cases t <;> decide

theorem addMod_lt {m : Nat} (h : 0 < m) (a b : Nat) : addMod m a b < m := Nat.mod_lt _ h
theorem mulMod_lt {m : Nat} (h : 0 < m) (a b : Nat) : mulMod m a b < m := Nat.mod_lt _ h
theorem divMod_lt {m : Nat} (h : 0 < m) (a b : Nat) : divMod m a b < m := Nat.mod_lt _ h
theorem toMont_lt {m : Nat} (h : 0 < m) (a : Nat) : toMont m a < m := Nat.mod_lt _ h
theorem fromMont_lt (t : Tag) (a : Nat) : fromMont t a < t.modulus := Nat.mod_lt _ t.modulus_pos
theorem montProduct_lt (t : Tag) (a b : Nat) : montProduct t a b < t.modulus := Nat.mod_lt _ t.modulus_pos

theorem subMod_lt {m : Nat} (h : 0 < m) (a b : Nat) : subMod m a b < m := by
  have h1 := Int.emod_nonneg ((a : Int) - b) (by omega : (m : Int) ≠ 0)
  have h2 := Int.emod_lt_of_pos ((a : Int) - b) (by omega : (0 : Int) < m)
  unfold subMod
  omega

/-- The subtraction names the integer residue. -/
theorem subMod_cast {m : Nat} (h : 0 < m) (a b : Nat) : (subMod m a b : Int) = ((a : Int) - b) % m := by
  have h1 := Int.emod_nonneg ((a : Int) - b) (by omega : (m : Int) ≠ 0)
  unfold subMod
  omega

/-- Square-and-multiply multiplies the accumulator by the power. -/
theorem powLoop_eq (m : Nat) : ∀ (fuel b e acc : Nat), e < 2 ^ fuel → powLoop m fuel b e acc % m = acc * b ^ e % m := by
  intro fuel
  induction fuel with
  | zero => intro b e acc h; simp_all [powLoop]
  | succ fuel ih =>
    intro b e acc h
    have hsq : ∀ k, (b * b % m) ^ k % m = b ^ (2 * k) % m := by
      intro k; rw [← Nat.pow_mod, pow_mul, pow_two]
    rw [powLoop, ih _ _ _ (by omega)]
    rw [Nat.mul_mod, hsq, ← Nat.mul_mod]
    rcases Nat.mod_two_eq_zero_or_one e with h2 | h2
    · have he : e = 2 * (e / 2) := by omega
      simp only [h2, Nat.zero_ne_one, if_false]
      rw [← he]
    · have he : e = 2 * (e / 2) + 1 := by omega
      simp only [h2, if_true]
      conv_rhs => rw [he, pow_succ]
      rw [Nat.mul_mod, Nat.mod_mod, ← Nat.mul_mod]
      congr 1; ring

theorem powLoop_lt {m : Nat} (h : 0 < m) : ∀ (fuel b e acc : Nat), acc < m → powLoop m fuel b e acc < m := by
  intro fuel
  induction fuel with
  | zero => intro b e acc ha; exact ha
  | succ fuel ih =>
    intro b e acc ha
    rw [powLoop]
    apply ih
    split
    · exact Nat.mod_lt _ h
    · exact ha

theorem powMod_lt {m : Nat} (h : 0 < m) (a e : Nat) : powMod m a e < m := powLoop_lt h _ _ _ _ (Nat.mod_lt _ h)

/-- The sequencer's result is the power, for every exponent of 256 bits. -/
theorem powMod_eq {m a e : Nat} (h : 0 < m) (he : e < 2 ^ 256) : powMod m a e = a ^ e % m := by
  have h1 := powLoop_eq m 256 a e (1 % m) he
  rw [Nat.mod_eq_of_lt (powLoop_lt h _ _ _ _ (Nat.mod_lt _ h))] at h1
  rw [powMod, h1, Nat.mod_mul_mod, Nat.one_mul]

theorem invMod_lt {m : Nat} (h : 0 < m) (a : Nat) : invMod m a < m := powMod_lt h _ _

theorem invMod_eq {m a : Nat} (h : 0 < m) (hm : m < 2 ^ 256) : invMod m a = a ^ (m - 2) % m :=
  powMod_eq h (by omega)

theorem fieldPow_lt {m : Nat} (h : 0 < m) (a e : Nat) : fieldPow m a e < m := powMod_lt h _ _

end Sys2Proof.Machine
end

