-- ==== Sys2Proof/Laws/Primes.lean ====
section
/-! SUPPORT. `P` and `N` are prime, by Lucas's test along the factors of `p - 1`; so the two coordinate types are fields. -/

namespace Sys2Proof.Machine

open Sys2Proof

/-- The test: `a` has order `p - 1` modulo `p`, where `fs` are the prime factors of `p - 1`. -/
def lucasTest (p a : Nat) (fs : List Nat) : Bool :=
  decide (1 < p) && decide (p < 2 ^ 256) && decide (fs.prod = p - 1) && decide (powMod p a (p - 1) = 1) &&
    fs.all fun q => decide (powMod p a ((p - 1) / q) ≠ 1)

/-- A prime divisor of a product of primes is one of them. -/
theorem prime_mem_of_dvd_prod {q : Nat} (hq : q.Prime) : ∀ {fs : List Nat}, (∀ f ∈ fs, f.Prime) → q ∣ fs.prod → q ∈ fs
  | [], _, h => absurd (Nat.dvd_one.mp h ▸ hq) Nat.not_prime_one
  | f :: fs, hf, h => by
    rw [List.prod_cons, hq.dvd_mul] at h
    rcases h with h | h
    · simp [(Nat.prime_dvd_prime_iff_eq hq (hf f (by simp))).mp h]
    · exact List.mem_cons_of_mem _ (prime_mem_of_dvd_prod hq (fun g hg => hf g (by simp [hg])) h)

theorem all_nil {p : Nat → Prop} : (∀ f ∈ ([] : List Nat), p f) ↔ True := by simp

theorem all_cons {p : Nat → Prop} {a : Nat} {fs : List Nat} : (∀ f ∈ a :: fs, p f) ↔ p a ∧ ∀ f ∈ fs, p f := by simp

theorem prime_of_lucasTest {p a : Nat} {fs : List Nat} (h : lucasTest p a fs = true) (hf : ∀ f ∈ fs, f.Prime) :
    p.Prime := by
  simp only [lucasTest, Bool.and_eq_true, decide_eq_true_eq, List.all_eq_true] at h
  obtain ⟨⟨⟨⟨hp, hlt⟩, hprod⟩, hone⟩, hall⟩ := h
  have key : ∀ e, e < 2 ^ 256 → ((a : ZMod p) ^ e = 1 ↔ powMod p a e = 1) := by
    intro e he
    rw [powMod_eq (by omega) he, ← Nat.cast_pow, ← Nat.cast_one, ZMod.natCast_eq_natCast_iff, Nat.ModEq,
      Nat.mod_eq_of_lt hp]
  refine lucas_primality p (a : ZMod p) ((key _ (by omega)).mpr hone) fun q hq hd => ?_
  rw [← hprod] at hd
  have hm := prime_mem_of_dvd_prod hq hf hd
  intro hcon
  exact hall q hm ((key _ (lt_of_le_of_lt (Nat.div_le_self _ _) (by omega))).mp hcon)

theorem prime_13441 : Nat.Prime 13441 :=
  prime_of_lucasTest (a := 11) (fs := [2, 2, 2, 2, 2, 2, 2, 3, 5, 7])
    (by decide +kernel)
    (by
      simp only [all_cons, all_nil, and_true]
      exact ⟨by norm_num, by norm_num, by norm_num, by norm_num, by norm_num, by norm_num, by norm_num,
        by norm_num, by norm_num, by norm_num⟩)

theorem prime_16699 : Nat.Prime 16699 :=
  prime_of_lucasTest (a := 3) (fs := [2, 3, 11, 11, 23])
    (by decide +kernel)
    (by
      simp only [all_cons, all_nil, and_true]
      exact ⟨by norm_num, by norm_num, by norm_num, by norm_num, by norm_num⟩)

theorem prime_20113 : Nat.Prime 20113 :=
  prime_of_lucasTest (a := 10) (fs := [2, 2, 2, 2, 3, 419])
    (by decide +kernel)
    (by
      simp only [all_cons, all_nil, and_true]
      exact ⟨by norm_num, by norm_num, by norm_num, by norm_num, by norm_num, by norm_num⟩)

theorem prime_24809 : Nat.Prime 24809 :=
  prime_of_lucasTest (a := 6) (fs := [2, 2, 2, 7, 443])
    (by decide +kernel)
    (by
      simp only [all_cons, all_nil, and_true]
      exact ⟨by norm_num, by norm_num, by norm_num, by norm_num, by norm_num⟩)

theorem prime_28181 : Nat.Prime 28181 :=
  prime_of_lucasTest (a := 2) (fs := [2, 2, 5, 1409])
    (by decide +kernel)
    (by
      simp only [all_cons, all_nil, and_true]
      exact ⟨by norm_num, by norm_num, by norm_num, by norm_num⟩)

theorem prime_41201 : Nat.Prime 41201 :=
  prime_of_lucasTest (a := 3) (fs := [2, 2, 2, 2, 5, 5, 103])
    (by decide +kernel)
    (by
      simp only [all_cons, all_nil, and_true]
      exact ⟨by norm_num, by norm_num, by norm_num, by norm_num, by norm_num, by norm_num, by norm_num⟩)

theorem prime_85831 : Nat.Prime 85831 :=
  prime_of_lucasTest (a := 3) (fs := [2, 3, 5, 2861])
    (by decide +kernel)
    (by
      simp only [all_cons, all_nil, and_true]
      exact ⟨by norm_num, by norm_num, by norm_num, by norm_num⟩)

theorem prime_96557 : Nat.Prime 96557 :=
  prime_of_lucasTest (a := 2) (fs := [2, 2, 101, 239])
    (by decide +kernel)
    (by
      simp only [all_cons, all_nil, and_true]
      exact ⟨by norm_num, by norm_num, by norm_num, by norm_num⟩)

theorem prime_120233 : Nat.Prime 120233 :=
  prime_of_lucasTest (a := 3) (fs := [2, 2, 2, 7, 19, 113])
    (by decide +kernel)
    (by
      simp only [all_cons, all_nil, and_true]
      exact ⟨by norm_num, by norm_num, by norm_num, by norm_num, by norm_num, by norm_num⟩)

theorem prime_305873 : Nat.Prime 305873 :=
  prime_of_lucasTest (a := 3) (fs := [2, 2, 2, 2, 7, 2731])
    (by decide +kernel)
    (by
      simp only [all_cons, all_nil, and_true]
      exact ⟨by norm_num, by norm_num, by norm_num, by norm_num, by norm_num, by norm_num⟩)

theorem prime_1269fd_21 : Nat.Prime 1206781 :=
  prime_of_lucasTest (a := 10) (fs := [2, 2, 3, 5, 20113])
    (by decide +kernel)
    (by
      simp only [all_cons, all_nil, and_true]
      exact ⟨by norm_num, by norm_num, by norm_num, by norm_num, prime_20113⟩)

theorem prime_18d67b_21 : Nat.Prime 1627771 :=
  prime_of_lucasTest (a := 3) (fs := [2, 3, 5, 29, 1871])
    (by decide +kernel)
    (by
      simp only [all_cons, all_nil, and_true]
      exact ⟨by norm_num, by norm_num, by norm_num, by norm_num, by norm_num⟩)

theorem prime_476f89_23 : Nat.Prime 4681609 :=
  prime_of_lucasTest (a := 23) (fs := [2, 2, 2, 3, 97, 2011])
    (by decide +kernel)
    (by
      simp only [all_cons, all_nil, and_true]
      exact ⟨by norm_num, by norm_num, by norm_num, by norm_num, by norm_num, by norm_num⟩)

theorem prime_6e7bef_23 : Nat.Prime 7240687 :=
  prime_of_lucasTest (a := 3) (fs := [2, 3, 1206781])
    (by decide +kernel)
    (by
      simp only [all_cons, all_nil, and_true]
      exact ⟨by norm_num, by norm_num, prime_1269fd_21⟩)

theorem prime_cb6d77_24 : Nat.Prime 13331831 :=
  prime_of_lucasTest (a := 13) (fs := [2, 5, 971, 1373])
    (by decide +kernel)
    (by
      simp only [all_cons, all_nil, and_true]
      exact ⟨by norm_num, by norm_num, by norm_num, by norm_num⟩)

theorem prime_2aa2c67_26 : Nat.Prime 44706919 :=
  prime_of_lucasTest (a := 6) (fs := [2, 3, 797, 9349])
    (by decide +kernel)
    (by
      simp only [all_cons, all_nil, and_true]
      exact ⟨by norm_num, by norm_num, by norm_num, by norm_num⟩)

theorem prime_669b171_27 : Nat.Prime 107590001 :=
  prime_of_lucasTest (a := 3) (fs := [2, 2, 2, 2, 5, 5, 5, 5, 7, 29, 53])
    (by decide +kernel)
    (by
      simp only [all_cons, all_nil, and_true]
      exact ⟨by norm_num, by norm_num, by norm_num, by norm_num, by norm_num, by norm_num, by norm_num,
        by norm_num, by norm_num, by norm_num, by norm_num⟩)

theorem prime_20818379_30 : Nat.Prime 545358713 :=
  prime_of_lucasTest (a := 5) (fs := [2, 2, 2, 41, 59, 28181])
    (by decide +kernel)
    (by
      simp only [all_cons, all_nil, and_true]
      exact ⟨by norm_num, by norm_num, by norm_num, by norm_num, by norm_num, prime_28181⟩)

theorem prime_45301408_39 : Nat.Prime 297159362677 :=
  prime_of_lucasTest (a := 2) (fs := [2, 2, 3, 3, 11, 461, 1627771])
    (by decide +kernel)
    (by
      simp only [all_cons, all_nil, and_true]
      exact ⟨by norm_num, by norm_num, by norm_num, by norm_num, by norm_num, by norm_num, prime_18d67b_21⟩)

theorem prime_17d6cfb8_57 : Nat.Prime 107361793816595537 :=
  prime_of_lucasTest (a := 3) (fs := [2, 2, 2, 2, 16699, 85831, 4681609])
    (by decide +kernel)
    (by
      simp only [all_cons, all_nil, and_true]
      exact ⟨by norm_num, by norm_num, by norm_num, by norm_num, prime_16699, prime_85831, prime_476f89_23⟩)

theorem prime_267f7214_58 : Nat.Prime 173378833005251801 :=
  prime_of_lucasTest (a := 6) (fs := [2, 2, 2, 5, 5, 2621, 24809, 13331831])
    (by decide +kernel)
    (by
      simp only [all_cons, all_nil, and_true]
      exact ⟨by norm_num, by norm_num, by norm_num, by norm_num, by norm_num, by norm_num, prime_24809,
        prime_cb6d77_24⟩)

theorem prime_978c6f35_68 : Nat.Prime 174723607534414371449 :=
  prime_of_lucasTest (a := 3) (fs := [2, 2, 2, 17, 59, 4051, 120233, 44706919])
    (by decide +kernel)
    (by
      simp only [all_cons, all_nil, and_true]
      exact ⟨by norm_num, by norm_num, by norm_num, by norm_num, by norm_num, by norm_num, prime_120233,
        prime_2aa2c67_26⟩)

theorem prime_4b0b9f59_75 : Nat.Prime 22149492674086928081353 :=
  prime_of_lucasTest (a := 5) (fs := [2, 2, 2, 3, 5323, 173378833005251801])
    (by decide +kernel)
    (by
      simp only [all_cons, all_nil, and_true]
      exact ⟨by norm_num, by norm_num, by norm_num, by norm_num, by norm_num, prime_267f7214_58⟩)

theorem prime_1c245bc1_77 : Nat.Prime 132896956044521568488119 :=
  prime_of_lucasTest (a := 6) (fs := [2, 3, 22149492674086928081353])
    (by decide +kernel)
    (by
      simp only [all_cons, all_nil, and_true]
      exact ⟨by norm_num, by norm_num, prime_4b0b9f59_75⟩)

theorem prime_5ddb9f12_95 : Nat.Prime 29047611873442575647497758179 :=
  prime_of_lucasTest (a := 2) (fs := [2, 293, 305873, 545358713, 297159362677])
    (by decide +kernel)
    (by
      simp only [all_cons, all_nil, and_true]
      exact ⟨by norm_num, by norm_num, prime_305873, prime_20818379_30, prime_45301408_39⟩)

theorem prime_10dbff26_109 : Nat.Prime 341948486974166000522343609283189 :=
  prime_of_lucasTest (a := 2) (fs := [2, 2, 3, 3, 3, 109, 29047611873442575647497758179])
    (by decide +kernel)
    (by
      simp only [all_cons, all_nil, and_true]
      exact ⟨by norm_num, by norm_num, by norm_num, by norm_num, by norm_num, by norm_num, prime_5ddb9f12_95⟩)

theorem prime_c03a94b2_128 : Nat.Prime 255515944373312847190720520512484175977 :=
  prime_of_lucasTest (a := 3) (fs := [2, 2, 2, 7, 7, 11, 1627, 2657, 4423, 41201, 96557, 7240687, 107590001])
    (by decide +kernel)
    (by
      simp only [all_cons, all_nil, and_true]
      exact ⟨by norm_num, by norm_num, by norm_num, by norm_num, by norm_num, by norm_num, by norm_num,
        by norm_num, by norm_num, prime_41201, prime_96557, prime_6e7bef_23, prime_669b171_27⟩)

theorem prime_1db8260e_237 : Nat.Prime 205115282021455665897114700593932402728804164701536103180137503955397371 :=
  prime_of_lucasTest (a := 10) (fs := [2, 3, 5, 29, 29, 31, 7723, 132896956044521568488119,
    255515944373312847190720520512484175977])
    (by decide +kernel)
    (by
      simp only [all_cons, all_nil, and_true]
      exact ⟨by norm_num, by norm_num, by norm_num, by norm_num, by norm_num, by norm_num, by norm_num,
        prime_1c245bc1_77, prime_c03a94b2_128⟩)

theorem Config.prime_N : Nat.Prime Config.N :=
  prime_of_lucasTest (a := 7) (fs := [2, 2, 2, 2, 2, 2, 3, 149, 631, 107361793816595537, 174723607534414371449,
    341948486974166000522343609283189])
    (by decide +kernel)
    (by
      simp only [all_cons, all_nil, and_true]
      exact ⟨by norm_num, by norm_num, by norm_num, by norm_num, by norm_num, by norm_num, by norm_num,
        by norm_num, by norm_num, prime_17d6cfb8_57, prime_978c6f35_68, prime_10dbff26_109⟩)

theorem Config.prime_P : Nat.Prime Config.P :=
  prime_of_lucasTest (a := 3) (fs := [2, 3, 7, 13441,
    205115282021455665897114700593932402728804164701536103180137503955397371])
    (by decide +kernel)
    (by
      simp only [all_cons, all_nil, and_true]
      exact ⟨by norm_num, by norm_num, by norm_num, prime_13441, prime_1db8260e_237⟩)

theorem Tag.prime_modulus (t : Tag) : t.modulus.Prime := by
  cases t
  · exact Config.prime_P
  · exact Config.prime_P
  · exact Config.prime_P
  · exact Config.prime_N

end Sys2Proof.Machine
end

