-- ==== Sys2Proof/Laws/Curve.lean ====
section
/-! SUPPORT. The residues as elements of the field `ZMod m`, and the bounds of point values: what each operation of the field
and of the curve gives, said once. -/

namespace Sys2Proof.Machine

open Sys2Proof

/-! ### Residues in `ZMod m` -/

theorem cast_mod (m a : Nat) : ((a % m : Nat) : ZMod m) = a := by simp

theorem cast_addMod (m a b : Nat) : ((addMod m a b : Nat) : ZMod m) = a + b := by simp [addMod]

theorem cast_mulMod (m a b : Nat) : ((mulMod m a b : Nat) : ZMod m) = a * b := by simp [mulMod]

theorem cast_subMod {m : Nat} (h : 0 < m) (a b : Nat) : ((subMod m a b : Nat) : ZMod m) = a - b := by
  have h1 : (((subMod m a b : Nat) : Int) : ZMod m) = (((a : Int) - b) % m : Int) := by rw [subMod_cast h]
  rw [Int.cast_natCast] at h1
  rw [h1, ZMod.intCast_mod]
  push_cast
  rfl

theorem cast_powMod {m e : Nat} (h : 0 < m) (he : e < 2 ^ 256) (a : Nat) : ((powMod m a e : Nat) : ZMod m) = (a : ZMod m) ^ e := by
  simp [powMod_eq h he]

/-- The Fermat power is the inverse in the field, 0 for 0 included. -/
theorem cast_invMod (t : Tag) (a : Nat) : ((invMod t.modulus a : Nat) : ZMod t.modulus) = (a : ZMod t.modulus)⁻¹ := by
  have := Fact.mk t.prime_modulus
  have hgt := t.modulus_gt_two
  rw [invMod_eq t.modulus_pos t.modulus_lt]
  push_cast [ZMod.natCast_mod]
  rcases eq_or_ne (a : ZMod t.modulus) 0 with h | h
  · rw [h, inv_zero, zero_pow (by omega)]
  · apply eq_inv_of_mul_eq_one_left
    rw [← pow_succ, show t.modulus - 2 + 1 = t.modulus - 1 by omega]
    exact ZMod.pow_card_sub_one_eq_one h

theorem cast_divMod (t : Tag) (a b : Nat) :
    ((divMod t.modulus a b : Nat) : ZMod t.modulus) = (a : ZMod t.modulus) * (b : ZMod t.modulus)⁻¹ := by
  rw [divMod, cast_mod, Nat.cast_mul, cast_invMod]

theorem cast_divMod_P (a b : Nat) :
    ((divMod Config.P a b : Nat) : ZMod Config.P) = (a : ZMod Config.P) * (b : ZMod Config.P)⁻¹ := cast_divMod .fp a b

/-- Two reduced numbers with the same residue are equal. -/
theorem residue_inj {m a b : Nat} (ha : a < m) (hb : b < m) (h : (a : ZMod m) = b) : a = b := by
  rw [ZMod.natCast_eq_natCast_iff, Nat.ModEq, Nat.mod_eq_of_lt ha, Nat.mod_eq_of_lt hb] at h
  exact h

/-- The curve equation of R201 in the field. -/
theorem onCurve_iff (x y : Nat) :
    onCurve x y = true ↔ (y : ZMod Config.P) * y = x * x * x + 7 := by
  have h : ((curveRhs x : Nat) : ZMod Config.P) = x * x * x + 7 := by
    simp [curveRhs, Config.curveA, Config.curveB]
  rw [onCurve, decide_eq_true_eq]
  constructor
  · intro he
    have := congrArg (Nat.cast (R := ZMod Config.P)) he
    rw [h] at this
    simpa using this
  · intro he
    refine residue_inj (Nat.mod_lt _ Config.P_pos) (Nat.mod_lt _ Config.P_pos) ?_
    rw [h, ← he]
    simp

/-! ### Bounds of point values -/

/-- A point value with reduced coordinates. -/
def Point.Reduced : Point → Prop
  | .identity => True
  | .affine x y => x < Config.P ∧ y < Config.P

theorem lineThrough_reduced (s x1 y1 x2 : Nat) : (lineThrough s x1 y1 x2).Reduced :=
  ⟨subMod_lt Config.P_pos _ _, subMod_lt Config.P_pos _ _⟩

theorem Point.add_reduced {A B : Point} (hA : A.Reduced) (hB : B.Reduced) : (A.add B).Reduced := by
  unfold Point.add
  split
  · exact hB
  · exact hA
  · split
    · trivial
    · split
      · exact lineThrough_reduced _ _ _ _
      · split
        · trivial
        · exact lineThrough_reduced _ _ _ _

theorem scalarLoop_reduced : ∀ (fuel coef : Nat) (cur res : Point), cur.Reduced → res.Reduced →
    (scalarLoop fuel coef cur res).Reduced
  | 0, _, _, _, _, hr => hr
  | fuel + 1, coef, cur, res, hc, hr => by
    unfold scalarLoop
    split
    · exact hr
    · refine scalarLoop_reduced fuel _ _ _ (Point.add_reduced hc hc) ?_
      split
      · exact Point.add_reduced hr hc
      · exact hr

theorem scalarMul_reduced (k : Nat) {A : Point} (h : A.Reduced) : (scalarMul k A).Reduced :=
  scalarLoop_reduced _ _ _ _ h trivial

theorem basePoint_reduced : basePoint.Reduced := ⟨by decide, by decide⟩

/-- More fuel than bits changes nothing. -/
theorem scalarLoop_fuel : ∀ (f g coef : Nat) (cur res : Point), coef < 2 ^ f → coef < 2 ^ g →
    scalarLoop f coef cur res = scalarLoop g coef cur res
  | 0, g, coef, cur, res, hf, _ => by
    have : coef = 0 := by simpa using hf
    subst this
    cases g <;> simp [scalarLoop]
  | f + 1, 0, coef, cur, res, _, hg => by
    have : coef = 0 := by simpa using hg
    subst this
    simp [scalarLoop]
  | f + 1, g + 1, coef, cur, res, hf, hg => by
    unfold scalarLoop
    split
    · rfl
    · exact scalarLoop_fuel f g _ _ _ (by omega) (by omega)

/-- A register gives back the reduced point value it was written with. -/
theorem Point.pt_toReg {A : Point} (h : A.Reduced) : A.toReg.pt = A := by
  cases A with
  | identity => rfl
  | affine x y =>
    have hP := Config.P_lt
    obtain ⟨hx, hy⟩ := h
    simp only [Point.toReg, PointReg.pt, BitVec.toNat_ofNat]
    rw [Nat.mod_eq_of_lt (by omega), Nat.mod_eq_of_lt (by omega)]

theorem PointReg.pt_reduced {r : PointReg} (hx : r.x.toNat < Config.P) (hy : r.y.toNat < Config.P) : r.pt.Reduced := by
  unfold PointReg.pt
  split
  · exact ⟨hx, hy⟩
  · trivial
  · trivial

end Sys2Proof.Machine
end

