-- ==== Sys2Proof/Laws/State.lean ====
section
/-! SUPPORT. What each update of the state leaves in each field, true by unfolding, so that no proof unfolds a record
update. -/

namespace Sys2Proof.Machine

open Sys2Proof

variable (s : State)

@[simp] theorem State.writeReg_regs (i : RegIdx) (v : ValReg) : (s.writeReg i v).regs = s.regs.set i v := rfl
@[simp] theorem State.writeReg_points (i : RegIdx) (v : ValReg) : (s.writeReg i v).points = s.points := rfl
@[simp] theorem State.writeReg_key (i : RegIdx) (v : ValReg) : (s.writeReg i v).key = s.key := rfl
@[simp] theorem State.writeReg_flags (i : RegIdx) (v : ValReg) : (s.writeReg i v).flags = s.flags := rfl
@[simp] theorem State.writeReg_ctrl (i : RegIdx) (v : ValReg) : (s.writeReg i v).ctrl = s.ctrl := rfl
@[simp] theorem State.writeReg_runState (i : RegIdx) (v : ValReg) : (s.writeReg i v).runState = s.runState := rfl
@[simp] theorem State.writeReg_done (i : RegIdx) (v : ValReg) : (s.writeReg i v).done = s.done := rfl
@[simp] theorem State.writeReg_err (i : RegIdx) (v : ValReg) : (s.writeReg i v).err = s.err := rfl
@[simp] theorem State.writeReg_seq (i : RegIdx) (v : ValReg) : (s.writeReg i v).seq = s.seq := rfl
@[simp] theorem State.writeReg_lastCmd (i : RegIdx) (v : ValReg) : (s.writeReg i v).lastCmd = s.lastCmd := rfl
@[simp] theorem State.writeReg_fault (i : RegIdx) (v : ValReg) : (s.writeReg i v).fault = s.fault := rfl
@[simp] theorem State.writeReg_pending (i : RegIdx) (v : ValReg) : (s.writeReg i v).pending = s.pending := rfl
@[simp] theorem State.writeReg_work (i : RegIdx) (v : ValReg) : (s.writeReg i v).work = s.work := rfl
@[simp] theorem State.writeReg_resetLine (i : RegIdx) (v : ValReg) : (s.writeReg i v).resetLine = s.resetLine := rfl
@[simp] theorem State.writeReg_env (i : RegIdx) (v : ValReg) : (s.writeReg i v).env = s.env := rfl

@[simp] theorem State.writeReg_point (i : RegIdx) (v : ValReg) (j : PtIdx) : (s.writeReg i v).point j = s.point j := rfl

@[simp] theorem State.writePoint_regs (j : PtIdx) (v : PointReg) : (s.writePoint j v).regs = s.regs := rfl
@[simp] theorem State.writePoint_points (j : PtIdx) (v : PointReg) : (s.writePoint j v).points = s.points.set j v := rfl
@[simp] theorem State.writePoint_key (j : PtIdx) (v : PointReg) : (s.writePoint j v).key = s.key := rfl
@[simp] theorem State.writePoint_flags (j : PtIdx) (v : PointReg) : (s.writePoint j v).flags = s.flags := rfl
@[simp] theorem State.writePoint_ctrl (j : PtIdx) (v : PointReg) : (s.writePoint j v).ctrl = s.ctrl := rfl
@[simp] theorem State.writePoint_runState (j : PtIdx) (v : PointReg) : (s.writePoint j v).runState = s.runState := rfl
@[simp] theorem State.writePoint_done (j : PtIdx) (v : PointReg) : (s.writePoint j v).done = s.done := rfl
@[simp] theorem State.writePoint_err (j : PtIdx) (v : PointReg) : (s.writePoint j v).err = s.err := rfl
@[simp] theorem State.writePoint_seq (j : PtIdx) (v : PointReg) : (s.writePoint j v).seq = s.seq := rfl
@[simp] theorem State.writePoint_lastCmd (j : PtIdx) (v : PointReg) : (s.writePoint j v).lastCmd = s.lastCmd := rfl
@[simp] theorem State.writePoint_fault (j : PtIdx) (v : PointReg) : (s.writePoint j v).fault = s.fault := rfl
@[simp] theorem State.writePoint_pending (j : PtIdx) (v : PointReg) : (s.writePoint j v).pending = s.pending := rfl
@[simp] theorem State.writePoint_work (j : PtIdx) (v : PointReg) : (s.writePoint j v).work = s.work := rfl
@[simp] theorem State.writePoint_resetLine (j : PtIdx) (v : PointReg) : (s.writePoint j v).resetLine = s.resetLine := rfl
@[simp] theorem State.writePoint_env (j : PtIdx) (v : PointReg) : (s.writePoint j v).env = s.env := rfl

@[simp] theorem State.writePoint_reg (j : PtIdx) (v : PointReg) (i : RegIdx) : (s.writePoint j v).reg i = s.reg i := rfl

@[simp] theorem State.writeKey_regs (k : KeySlot) : (s.writeKey k).regs = s.regs := rfl
@[simp] theorem State.writeKey_points (k : KeySlot) : (s.writeKey k).points = s.points := rfl
@[simp] theorem State.writeKey_key (k : KeySlot) : (s.writeKey k).key = k := rfl
@[simp] theorem State.writeKey_flags (k : KeySlot) : (s.writeKey k).flags = s.flags := rfl
@[simp] theorem State.writeKey_ctrl (k : KeySlot) : (s.writeKey k).ctrl = s.ctrl := rfl
@[simp] theorem State.writeKey_runState (k : KeySlot) : (s.writeKey k).runState = s.runState := rfl
@[simp] theorem State.writeKey_done (k : KeySlot) : (s.writeKey k).done = s.done := rfl
@[simp] theorem State.writeKey_err (k : KeySlot) : (s.writeKey k).err = s.err := rfl
@[simp] theorem State.writeKey_seq (k : KeySlot) : (s.writeKey k).seq = s.seq := rfl
@[simp] theorem State.writeKey_lastCmd (k : KeySlot) : (s.writeKey k).lastCmd = s.lastCmd := rfl
@[simp] theorem State.writeKey_fault (k : KeySlot) : (s.writeKey k).fault = s.fault := rfl
@[simp] theorem State.writeKey_pending (k : KeySlot) : (s.writeKey k).pending = s.pending := rfl
@[simp] theorem State.writeKey_work (k : KeySlot) : (s.writeKey k).work = s.work := rfl
@[simp] theorem State.writeKey_resetLine (k : KeySlot) : (s.writeKey k).resetLine = s.resetLine := rfl
@[simp] theorem State.writeKey_env (k : KeySlot) : (s.writeKey k).env = s.env := rfl

@[simp] theorem State.writeKey_reg (k : KeySlot) (i : RegIdx) : (s.writeKey k).reg i = s.reg i := rfl
@[simp] theorem State.writeKey_point (k : KeySlot) (j : PtIdx) : (s.writeKey k).point j = s.point j := rfl

@[simp] theorem State.writeFlags_regs (f : FlagBits) : (s.writeFlags f).regs = s.regs := rfl
@[simp] theorem State.writeFlags_points (f : FlagBits) : (s.writeFlags f).points = s.points := rfl
@[simp] theorem State.writeFlags_key (f : FlagBits) : (s.writeFlags f).key = s.key := rfl
@[simp] theorem State.writeFlags_flags (f : FlagBits) : (s.writeFlags f).flags = f := rfl
@[simp] theorem State.writeFlags_ctrl (f : FlagBits) : (s.writeFlags f).ctrl = s.ctrl := rfl
@[simp] theorem State.writeFlags_runState (f : FlagBits) : (s.writeFlags f).runState = s.runState := rfl
@[simp] theorem State.writeFlags_done (f : FlagBits) : (s.writeFlags f).done = s.done := rfl
@[simp] theorem State.writeFlags_err (f : FlagBits) : (s.writeFlags f).err = s.err := rfl
@[simp] theorem State.writeFlags_seq (f : FlagBits) : (s.writeFlags f).seq = s.seq := rfl
@[simp] theorem State.writeFlags_lastCmd (f : FlagBits) : (s.writeFlags f).lastCmd = s.lastCmd := rfl
@[simp] theorem State.writeFlags_fault (f : FlagBits) : (s.writeFlags f).fault = s.fault := rfl
@[simp] theorem State.writeFlags_pending (f : FlagBits) : (s.writeFlags f).pending = s.pending := rfl
@[simp] theorem State.writeFlags_work (f : FlagBits) : (s.writeFlags f).work = s.work := rfl
@[simp] theorem State.writeFlags_resetLine (f : FlagBits) : (s.writeFlags f).resetLine = s.resetLine := rfl
@[simp] theorem State.writeFlags_env (f : FlagBits) : (s.writeFlags f).env = s.env := rfl

@[simp] theorem State.writeFlags_reg (f : FlagBits) (i : RegIdx) : (s.writeFlags f).reg i = s.reg i := rfl
@[simp] theorem State.writeFlags_point (f : FlagBits) (j : PtIdx) : (s.writeFlags f).point j = s.point j := rfl

@[simp] theorem State.writeFault_regs (f : FaultBits) : (s.writeFault f).regs = s.regs := rfl
@[simp] theorem State.writeFault_points (f : FaultBits) : (s.writeFault f).points = s.points := rfl
@[simp] theorem State.writeFault_key (f : FaultBits) : (s.writeFault f).key = s.key := rfl
@[simp] theorem State.writeFault_flags (f : FaultBits) : (s.writeFault f).flags = s.flags := rfl
@[simp] theorem State.writeFault_ctrl (f : FaultBits) : (s.writeFault f).ctrl = s.ctrl := rfl
@[simp] theorem State.writeFault_runState (f : FaultBits) : (s.writeFault f).runState = s.runState := rfl
@[simp] theorem State.writeFault_done (f : FaultBits) : (s.writeFault f).done = s.done := rfl
@[simp] theorem State.writeFault_err (f : FaultBits) : (s.writeFault f).err = s.err := rfl
@[simp] theorem State.writeFault_seq (f : FaultBits) : (s.writeFault f).seq = s.seq := rfl
@[simp] theorem State.writeFault_lastCmd (f : FaultBits) : (s.writeFault f).lastCmd = s.lastCmd := rfl
@[simp] theorem State.writeFault_fault (f : FaultBits) : (s.writeFault f).fault = f := rfl
@[simp] theorem State.writeFault_pending (f : FaultBits) : (s.writeFault f).pending = s.pending := rfl
@[simp] theorem State.writeFault_work (f : FaultBits) : (s.writeFault f).work = s.work := rfl
@[simp] theorem State.writeFault_resetLine (f : FaultBits) : (s.writeFault f).resetLine = s.resetLine := rfl
@[simp] theorem State.writeFault_env (f : FaultBits) : (s.writeFault f).env = s.env := rfl

@[simp] theorem State.writeFault_reg (f : FaultBits) (i : RegIdx) : (s.writeFault f).reg i = s.reg i := rfl
@[simp] theorem State.writeFault_point (f : FaultBits) (j : PtIdx) : (s.writeFault f).point j = s.point j := rfl

@[simp] theorem State.finish_regs : (s.finish).regs = s.regs := rfl
@[simp] theorem State.finish_points : (s.finish).points = s.points := rfl
@[simp] theorem State.finish_key : (s.finish).key = s.key := rfl
@[simp] theorem State.finish_flags : (s.finish).flags = s.flags := rfl
@[simp] theorem State.finish_ctrl : (s.finish).ctrl = s.ctrl := rfl
@[simp] theorem State.finish_runState : (s.finish).runState = .idle := rfl
@[simp] theorem State.finish_done : (s.finish).done = true := rfl
@[simp] theorem State.finish_err : (s.finish).err = s.err := rfl
@[simp] theorem State.finish_seq : (s.finish).seq = s.seq := rfl
@[simp] theorem State.finish_lastCmd : (s.finish).lastCmd = s.lastCmd := rfl
@[simp] theorem State.finish_fault : (s.finish).fault = s.fault := rfl
@[simp] theorem State.finish_pending : (s.finish).pending = none := rfl
@[simp] theorem State.finish_work : (s.finish).work = Work.zero := rfl
@[simp] theorem State.finish_resetLine : (s.finish).resetLine = s.resetLine := rfl
@[simp] theorem State.finish_env : (s.finish).env = s.env := rfl

@[simp] theorem State.finish_reg (i : RegIdx) : (s.finish).reg i = s.reg i := rfl
@[simp] theorem State.finish_point (j : PtIdx) : (s.finish).point j = s.point j := rfl

@[simp] theorem State.raiseError_regs (e : ErrorRecord) : (s.raiseError e).regs = s.regs := rfl
@[simp] theorem State.raiseError_points (e : ErrorRecord) : (s.raiseError e).points = s.points := rfl
@[simp] theorem State.raiseError_key (e : ErrorRecord) : (s.raiseError e).key = s.key := rfl
@[simp] theorem State.raiseError_flags (e : ErrorRecord) : (s.raiseError e).flags = s.flags := rfl
@[simp] theorem State.raiseError_ctrl (e : ErrorRecord) : (s.raiseError e).ctrl = s.ctrl := rfl
@[simp] theorem State.raiseError_runState (e : ErrorRecord) : (s.raiseError e).runState = .error := rfl
@[simp] theorem State.raiseError_done (e : ErrorRecord) : (s.raiseError e).done = s.done := rfl
@[simp] theorem State.raiseError_err (e : ErrorRecord) : (s.raiseError e).err = some e := rfl
@[simp] theorem State.raiseError_seq (e : ErrorRecord) : (s.raiseError e).seq = s.seq := rfl
@[simp] theorem State.raiseError_lastCmd (e : ErrorRecord) : (s.raiseError e).lastCmd = s.lastCmd := rfl
@[simp] theorem State.raiseError_fault (e : ErrorRecord) : (s.raiseError e).fault = s.fault := rfl
@[simp] theorem State.raiseError_pending (e : ErrorRecord) : (s.raiseError e).pending = none := rfl
@[simp] theorem State.raiseError_work (e : ErrorRecord) : (s.raiseError e).work = Work.zero := rfl
@[simp] theorem State.raiseError_resetLine (e : ErrorRecord) : (s.raiseError e).resetLine = s.resetLine := rfl
@[simp] theorem State.raiseError_env (e : ErrorRecord) : (s.raiseError e).env = s.env := rfl

@[simp] theorem State.raiseError_reg (e : ErrorRecord) (i : RegIdx) : (s.raiseError e).reg i = s.reg i := rfl
@[simp] theorem State.raiseError_point (e : ErrorRecord) (j : PtIdx) : (s.raiseError e).point j = s.point j := rfl

@[simp] theorem State.accept_regs (c : Word) : (s.accept c).regs = s.regs := rfl
@[simp] theorem State.accept_points (c : Word) : (s.accept c).points = s.points := rfl
@[simp] theorem State.accept_key (c : Word) : (s.accept c).key = s.key := rfl
@[simp] theorem State.accept_flags (c : Word) : (s.accept c).flags = s.flags := rfl
@[simp] theorem State.accept_ctrl (c : Word) : (s.accept c).ctrl = s.ctrl := rfl
@[simp] theorem State.accept_runState (c : Word) : (s.accept c).runState = .busy := rfl
@[simp] theorem State.accept_done (c : Word) : (s.accept c).done = false := rfl
@[simp] theorem State.accept_err (c : Word) : (s.accept c).err = s.err := rfl
@[simp] theorem State.accept_seq (c : Word) : (s.accept c).seq = s.seq + 1 := rfl
@[simp] theorem State.accept_lastCmd (c : Word) : (s.accept c).lastCmd = c := rfl
@[simp] theorem State.accept_fault (c : Word) : (s.accept c).fault = s.fault := rfl
@[simp] theorem State.accept_pending (c : Word) : (s.accept c).pending = some c := rfl
@[simp] theorem State.accept_work (c : Word) : (s.accept c).work = s.work := rfl
@[simp] theorem State.accept_resetLine (c : Word) : (s.accept c).resetLine = s.resetLine := rfl
@[simp] theorem State.accept_env (c : Word) : (s.accept c).env = s.env := rfl

@[simp] theorem State.accept_reg (c : Word) (i : RegIdx) : (s.accept c).reg i = s.reg i := rfl
@[simp] theorem State.accept_point (c : Word) (j : PtIdx) : (s.accept c).point j = s.point j := rfl

@[simp] theorem State.releaseReset_regs : (s.releaseReset).regs = s.regs := rfl
@[simp] theorem State.releaseReset_points : (s.releaseReset).points = s.points := rfl
@[simp] theorem State.releaseReset_key : (s.releaseReset).key = s.key := rfl
@[simp] theorem State.releaseReset_flags : (s.releaseReset).flags = s.flags := rfl
@[simp] theorem State.releaseReset_ctrl : (s.releaseReset).ctrl = s.ctrl := rfl
@[simp] theorem State.releaseReset_runState : (s.releaseReset).runState = s.runState := rfl
@[simp] theorem State.releaseReset_done : (s.releaseReset).done = s.done := rfl
@[simp] theorem State.releaseReset_err : (s.releaseReset).err = s.err := rfl
@[simp] theorem State.releaseReset_seq : (s.releaseReset).seq = s.seq := rfl
@[simp] theorem State.releaseReset_lastCmd : (s.releaseReset).lastCmd = s.lastCmd := rfl
@[simp] theorem State.releaseReset_fault : (s.releaseReset).fault = s.fault := rfl
@[simp] theorem State.releaseReset_pending : (s.releaseReset).pending = s.pending := rfl
@[simp] theorem State.releaseReset_work : (s.releaseReset).work = s.work := rfl
@[simp] theorem State.releaseReset_resetLine : (s.releaseReset).resetLine = false := rfl
@[simp] theorem State.releaseReset_env : (s.releaseReset).env = s.env := rfl

@[simp] theorem State.releaseReset_reg (i : RegIdx) : (s.releaseReset).reg i = s.reg i := rfl
@[simp] theorem State.releaseReset_point (j : PtIdx) : (s.releaseReset).point j = s.point j := rfl

@[simp] theorem State.withAgenda_regs (l : List Move) : (s.withAgenda l).regs = s.regs := rfl
@[simp] theorem State.withAgenda_points (l : List Move) : (s.withAgenda l).points = s.points := rfl
@[simp] theorem State.withAgenda_key (l : List Move) : (s.withAgenda l).key = s.key := rfl
@[simp] theorem State.withAgenda_flags (l : List Move) : (s.withAgenda l).flags = s.flags := rfl
@[simp] theorem State.withAgenda_ctrl (l : List Move) : (s.withAgenda l).ctrl = s.ctrl := rfl
@[simp] theorem State.withAgenda_runState (l : List Move) : (s.withAgenda l).runState = s.runState := rfl
@[simp] theorem State.withAgenda_done (l : List Move) : (s.withAgenda l).done = s.done := rfl
@[simp] theorem State.withAgenda_err (l : List Move) : (s.withAgenda l).err = s.err := rfl
@[simp] theorem State.withAgenda_seq (l : List Move) : (s.withAgenda l).seq = s.seq := rfl
@[simp] theorem State.withAgenda_lastCmd (l : List Move) : (s.withAgenda l).lastCmd = s.lastCmd := rfl
@[simp] theorem State.withAgenda_fault (l : List Move) : (s.withAgenda l).fault = s.fault := rfl
@[simp] theorem State.withAgenda_pending (l : List Move) : (s.withAgenda l).pending = s.pending := rfl
@[simp] theorem State.withAgenda_work (l : List Move) : (s.withAgenda l).work = s.work := rfl
@[simp] theorem State.withAgenda_resetLine (l : List Move) : (s.withAgenda l).resetLine = s.resetLine := rfl
@[simp] theorem State.withAgenda_env (l : List Move) : (s.withAgenda l).env = { s.env with agenda := l } := rfl

@[simp] theorem State.withAgenda_reg (l : List Move) (i : RegIdx) : (s.withAgenda l).reg i = s.reg i := rfl
@[simp] theorem State.withAgenda_point (l : List Move) (j : PtIdx) : (s.withAgenda l).point j = s.point j := rfl

@[simp] theorem State.answer_regs (w : Word) : (s.answer w).regs = s.regs := rfl
@[simp] theorem State.answer_points (w : Word) : (s.answer w).points = s.points := rfl
@[simp] theorem State.answer_key (w : Word) : (s.answer w).key = s.key := rfl
@[simp] theorem State.answer_flags (w : Word) : (s.answer w).flags = s.flags := rfl
@[simp] theorem State.answer_ctrl (w : Word) : (s.answer w).ctrl = s.ctrl := rfl
@[simp] theorem State.answer_runState (w : Word) : (s.answer w).runState = s.runState := rfl
@[simp] theorem State.answer_done (w : Word) : (s.answer w).done = s.done := rfl
@[simp] theorem State.answer_err (w : Word) : (s.answer w).err = s.err := rfl
@[simp] theorem State.answer_seq (w : Word) : (s.answer w).seq = s.seq := rfl
@[simp] theorem State.answer_lastCmd (w : Word) : (s.answer w).lastCmd = s.lastCmd := rfl
@[simp] theorem State.answer_fault (w : Word) : (s.answer w).fault = s.fault := rfl
@[simp] theorem State.answer_pending (w : Word) : (s.answer w).pending = s.pending := rfl
@[simp] theorem State.answer_work (w : Word) : (s.answer w).work = s.work := rfl
@[simp] theorem State.answer_resetLine (w : Word) : (s.answer w).resetLine = s.resetLine := rfl
@[simp] theorem State.answer_env (w : Word) : (s.answer w).env = { s.env with answers := w :: s.env.answers } := rfl

@[simp] theorem State.answer_reg (w : Word) (i : RegIdx) : (s.answer w).reg i = s.reg i := rfl
@[simp] theorem State.answer_point (w : Word) (j : PtIdx) : (s.answer w).point j = s.point j := rfl

@[simp] theorem State.answerFree_regs : (s.answerFree).regs = s.regs := rfl
@[simp] theorem State.answerFree_points : (s.answerFree).points = s.points := rfl
@[simp] theorem State.answerFree_key : (s.answerFree).key = s.key := rfl
@[simp] theorem State.answerFree_flags : (s.answerFree).flags = s.flags := rfl
@[simp] theorem State.answerFree_ctrl : (s.answerFree).ctrl = s.ctrl := rfl
@[simp] theorem State.answerFree_runState : (s.answerFree).runState = s.runState := rfl
@[simp] theorem State.answerFree_done : (s.answerFree).done = s.done := rfl
@[simp] theorem State.answerFree_err : (s.answerFree).err = s.err := rfl
@[simp] theorem State.answerFree_seq : (s.answerFree).seq = s.seq := rfl
@[simp] theorem State.answerFree_lastCmd : (s.answerFree).lastCmd = s.lastCmd := rfl
@[simp] theorem State.answerFree_fault : (s.answerFree).fault = s.fault := rfl
@[simp] theorem State.answerFree_pending : (s.answerFree).pending = s.pending := rfl
@[simp] theorem State.answerFree_work : (s.answerFree).work = s.work := rfl
@[simp] theorem State.answerFree_resetLine : (s.answerFree).resetLine = s.resetLine := rfl
@[simp] theorem State.answerFree_env : (s.answerFree).env = { s.env with
      answers := Config.freeWord s.env.freeCount :: s.env.answers, freeCount := s.env.freeCount + 1 } := rfl

@[simp] theorem State.answerFree_reg (i : RegIdx) : (s.answerFree).reg i = s.reg i := rfl
@[simp] theorem State.answerFree_point (j : PtIdx) : (s.answerFree).point j = s.point j := rfl

@[simp] theorem State.setProvider_regs (a : Bool) : (s.setProvider a).regs = s.regs := rfl
@[simp] theorem State.setProvider_points (a : Bool) : (s.setProvider a).points = s.points := rfl
@[simp] theorem State.setProvider_key (a : Bool) : (s.setProvider a).key = s.key := rfl
@[simp] theorem State.setProvider_flags (a : Bool) : (s.setProvider a).flags = s.flags := rfl
@[simp] theorem State.setProvider_ctrl (a : Bool) : (s.setProvider a).ctrl = s.ctrl := rfl
@[simp] theorem State.setProvider_runState (a : Bool) : (s.setProvider a).runState = s.runState := rfl
@[simp] theorem State.setProvider_done (a : Bool) : (s.setProvider a).done = s.done := rfl
@[simp] theorem State.setProvider_err (a : Bool) : (s.setProvider a).err = s.err := rfl
@[simp] theorem State.setProvider_seq (a : Bool) : (s.setProvider a).seq = s.seq := rfl
@[simp] theorem State.setProvider_lastCmd (a : Bool) : (s.setProvider a).lastCmd = s.lastCmd := rfl
@[simp] theorem State.setProvider_fault (a : Bool) : (s.setProvider a).fault = s.fault := rfl
@[simp] theorem State.setProvider_pending (a : Bool) : (s.setProvider a).pending = s.pending := rfl
@[simp] theorem State.setProvider_work (a : Bool) : (s.setProvider a).work = s.work := rfl
@[simp] theorem State.setProvider_resetLine (a : Bool) : (s.setProvider a).resetLine = s.resetLine := rfl
@[simp] theorem State.setProvider_env (a : Bool) : (s.setProvider a).env = { s.env with hmac := { s.env.hmac with answering := a } } := rfl

@[simp] theorem State.setProvider_reg (a : Bool) (i : RegIdx) : (s.setProvider a).reg i = s.reg i := rfl
@[simp] theorem State.setProvider_point (a : Bool) (j : PtIdx) : (s.setProvider a).point j = s.point j := rfl

@[simp] theorem State.logRequests_regs (l : List HmacRequest) : (s.logRequests l).regs = s.regs := rfl
@[simp] theorem State.logRequests_points (l : List HmacRequest) : (s.logRequests l).points = s.points := rfl
@[simp] theorem State.logRequests_key (l : List HmacRequest) : (s.logRequests l).key = s.key := rfl
@[simp] theorem State.logRequests_flags (l : List HmacRequest) : (s.logRequests l).flags = s.flags := rfl
@[simp] theorem State.logRequests_ctrl (l : List HmacRequest) : (s.logRequests l).ctrl = s.ctrl := rfl
@[simp] theorem State.logRequests_runState (l : List HmacRequest) : (s.logRequests l).runState = s.runState := rfl
@[simp] theorem State.logRequests_done (l : List HmacRequest) : (s.logRequests l).done = s.done := rfl
@[simp] theorem State.logRequests_err (l : List HmacRequest) : (s.logRequests l).err = s.err := rfl
@[simp] theorem State.logRequests_seq (l : List HmacRequest) : (s.logRequests l).seq = s.seq := rfl
@[simp] theorem State.logRequests_lastCmd (l : List HmacRequest) : (s.logRequests l).lastCmd = s.lastCmd := rfl
@[simp] theorem State.logRequests_fault (l : List HmacRequest) : (s.logRequests l).fault = s.fault := rfl
@[simp] theorem State.logRequests_pending (l : List HmacRequest) : (s.logRequests l).pending = s.pending := rfl
@[simp] theorem State.logRequests_work (l : List HmacRequest) : (s.logRequests l).work = s.work := rfl
@[simp] theorem State.logRequests_resetLine (l : List HmacRequest) : (s.logRequests l).resetLine = s.resetLine := rfl
@[simp] theorem State.logRequests_env (l : List HmacRequest) : (s.logRequests l).env = { s.env with hmac := { s.env.hmac with answered := l ++ s.env.hmac.answered } } := rfl

@[simp] theorem State.logRequests_reg (l : List HmacRequest) (i : RegIdx) : (s.logRequests l).reg i = s.reg i := rfl
@[simp] theorem State.logRequests_point (l : List HmacRequest) (j : PtIdx) : (s.logRequests l).point j = s.point j := rfl

@[simp] theorem State.assertReset_regs : s.assertReset.regs = State.reset.regs := rfl
@[simp] theorem State.assertReset_points : s.assertReset.points = State.reset.points := rfl
@[simp] theorem State.assertReset_key : s.assertReset.key = State.reset.key := rfl
@[simp] theorem State.assertReset_flags : s.assertReset.flags = State.reset.flags := rfl
@[simp] theorem State.assertReset_ctrl : s.assertReset.ctrl = State.reset.ctrl := rfl
@[simp] theorem State.assertReset_runState : s.assertReset.runState = State.reset.runState := rfl
@[simp] theorem State.assertReset_done : s.assertReset.done = State.reset.done := rfl
@[simp] theorem State.assertReset_err : s.assertReset.err = State.reset.err := rfl
@[simp] theorem State.assertReset_seq : s.assertReset.seq = State.reset.seq := rfl
@[simp] theorem State.assertReset_lastCmd : s.assertReset.lastCmd = State.reset.lastCmd := rfl
@[simp] theorem State.assertReset_fault : s.assertReset.fault = State.reset.fault := rfl
@[simp] theorem State.assertReset_pending : s.assertReset.pending = State.reset.pending := rfl
@[simp] theorem State.assertReset_work : s.assertReset.work = State.reset.work := rfl
@[simp] theorem State.assertReset_resetLine : s.assertReset.resetLine = true := rfl
@[simp] theorem State.assertReset_env : s.assertReset.env = s.env := rfl

/-! ### Reading a register after a write -/

@[simp] theorem State.reg_writeReg_same (i : RegIdx) (v : ValReg) : (s.writeReg i v).reg i = v := by
  simp [State.reg, State.writeReg]

@[simp] theorem State.reg_writeReg_ne {i k : RegIdx} (h : i ≠ k) (v : ValReg) : (s.writeReg i v).reg k = s.reg k := by
  simp only [State.reg, State.writeReg, Fin.getElem_fin]
  exact Vector.getElem_set_ne _ _ (fun e => h (Fin.ext e))

theorem State.reg_writeReg (i k : RegIdx) (v : ValReg) :
    (s.writeReg i v).reg k = if i = k then v else s.reg k := by
  split
  · next h => subst h; simp
  · next h => simp [h]

@[simp] theorem State.point_writePoint_same (j : PtIdx) (v : PointReg) : (s.writePoint j v).point j = v := by
  simp [State.point, State.writePoint]

@[simp] theorem State.point_writePoint_ne {j k : PtIdx} (h : j ≠ k) (v : PointReg) :
    (s.writePoint j v).point k = s.point k := by
  simp only [State.point, State.writePoint, Fin.getElem_fin]
  exact Vector.getElem_set_ne _ _ (fun e => h (Fin.ext e))

theorem State.point_writePoint (j k : PtIdx) (v : PointReg) :
    (s.writePoint j v).point k = if j = k then v else s.point k := by
  split
  · next h => subst h; simp
  · next h => simp [h]

@[simp] theorem State.reset_reg (i : RegIdx) : State.reset.reg i = ⟨.empty, 0⟩ := by
  simp [State.reg, State.reset]

@[simp] theorem State.reset_point (j : PtIdx) : State.reset.point j = PointReg.nothing := by
  simp [State.point, State.reset]

end Sys2Proof.Machine
end

