-- ==== Sys2Proof/Laws/Ops.lean ====
section
/-! SUPPORT. What a checked command can do: it always answers a next state, which is the error entry of its first failing
check or the state given for success. -/

namespace Sys2Proof.Machine

open Sys2Proof

@[simp] theorem firstFailing_nil : firstFailing [] = none := rfl

theorem firstFailing_cons (c : Check) (cs : List Check) :
    firstFailing (c :: cs) = if c.holds then firstFailing cs else some ⟨c.kind, c.info⟩ := rfl

/-- No check fails exactly when all hold. -/
theorem firstFailing_eq_none {cs : List Check} : firstFailing cs = none ↔ ∀ c ∈ cs, c.holds = true := by
  induction cs with
  | nil => simp
  | cons c cs ih => by_cases h : c.holds = true <;> simp [firstFailing_cons, h, ih]

/-- The error reported is one that some check of the list names. -/
theorem firstFailing_eq_some {cs : List Check} {e : ErrorRecord} (h : firstFailing cs = some e) :
    ∃ c ∈ cs, c.holds = false ∧ e = ⟨c.kind, c.info⟩ := by
  induction cs with
  | nil => simp at h
  | cons c cs ih =>
    by_cases hc : c.holds = true
    · obtain ⟨d, hd, hf, he⟩ := ih (by simpa [firstFailing_cons, hc] using h)
      exact ⟨d, by simp [hd], hf, he⟩
    · exact ⟨c, by simp, by simpa using hc, by simpa [firstFailing_cons, hc, eq_comm] using h⟩

/-- The checks of a list are made before those after it. -/
theorem firstFailing_append (cs ds : List Check) :
    firstFailing (cs ++ ds) = match firstFailing cs with | some e => some e | none => firstFailing ds := by
  induction cs with
  | nil => simp
  | cons c cs ih => by_cases h : c.holds = true <;> simp [firstFailing_cons, h, ih]

theorem guarded_of_none {cs : List Check} {s t : State} (h : firstFailing cs = none) : guarded cs s t = .next t := by
  simp [guarded, h]

theorem guarded_of_some {cs : List Check} {s t : State} {e : ErrorRecord} (h : firstFailing cs = some e) :
    guarded cs s t = .next (s.raiseError e) := by
  simp [guarded, h]

/-- Everything a checked command can do. -/
theorem guarded_cases (cs : List Check) (s t : State) :
    (firstFailing cs = none ∧ guarded cs s t = .next t) ∨
    ∃ e, firstFailing cs = some e ∧ guarded cs s t = .next (s.raiseError e) := by
  cases h : firstFailing cs with
  | none => exact .inl ⟨rfl, guarded_of_none h⟩
  | some e => exact .inr ⟨e, rfl, guarded_of_some h⟩

/-- The inversion of a checked command. -/
theorem guarded_next {cs : List Check} {s t u : State} (h : guarded cs s t = .next u) :
    (firstFailing cs = none ∧ u = t) ∨ ∃ e, firstFailing cs = some e ∧ u = s.raiseError e := by
  rcases guarded_cases cs s t with ⟨hn, hg⟩ | ⟨e, he, hg⟩
  · exact .inl ⟨hn, by simpa [hg, eq_comm] using h⟩
  · exact .inr ⟨e, he, by simpa [hg, eq_comm] using h⟩

theorem State.returnFromError_of_error {s : State} (h : s.runState = .error) :
    s.returnFromError = { s with runState := .idle, err := none } := by
  simp [State.returnFromError, h]

theorem State.returnFromError_of_ne {s : State} (h : s.runState ≠ .error) : s.returnFromError = s := by
  simp [State.returnFromError, h]

end Sys2Proof.Machine
end

