-- ==== Sys2Proof/Laws/Exec.lean ====
section
/-! SUPPORT. What performing a command can do: the shape of the next state (20_memory.md R72, 60_exceptions.md R350). -/

namespace Sys2Proof.Machine

open Sys2Proof

/-- One turn of the nonce loop: the provider is silent, the candidate is refused, or it is used (R277, R283). -/
theorem nonceTurn_cases (s : State) (z : Val) (use : Val → State → State) :
    (s.env.hmac.answering = false ∧ nonceTurn s z use = s) ∨
    (s.env.hmac.answering = true ∧
      nonceAccepted (turnCandidate s.hmac256 s.key.secret z s.work).V = false ∧
      nonceTurn s z use = s.keepRatchet ((turnCandidate s.hmac256 s.key.secret z s.work).retry s.hmac256)) ∨
    (s.env.hmac.answering = true ∧
      nonceAccepted (turnCandidate s.hmac256 s.key.secret z s.work).V = true ∧
      nonceTurn s z use = use (turnCandidate s.hmac256 s.key.secret z s.work).V
        (s.logRequests (turnCandidate s.hmac256 s.key.secret z s.work).sent)) := by
  cases h : s.env.hmac.answering
  · exact .inl ⟨rfl, by simp [nonceTurn, h]⟩
  · cases ha : nonceAccepted (turnCandidate s.hmac256 s.key.secret z s.work).V
    · exact .inr (.inl ⟨rfl, rfl, by simp [nonceTurn, h, ha]⟩)
    · exact .inr (.inr ⟨rfl, rfl, by simp [nonceTurn, h, ha]⟩)

/-- The commands that draw a nonce (R81). -/
def Instr.drawsNonce : Instr → Bool
  | .nonce _ _ | .sign _ _ _ => true
  | .nop | .ldi _ _ | .ldc _ _ | .mov _ _ | .clr _ | .pmov _ _ | .pclr _ | .fnew _ _ _ | .fint _ _ | .ired _ _ _
  | .icmp _ _ | .fadd _ _ _ | .fsub _ _ _ | .fmul _ _ _ | .fdiv _ _ _ | .finv _ _ | .fpow _ _ _ | .feq _ _
  | .mmul _ _ _ | .mto _ _ | .mfrom _ _ | .pnew _ _ _ | .pinf _ | .padd _ _ _ | .pgetx _ _ | .pgety _ _ | .peq _ _
  | .ptest _ | .pmul _ _ _ | .pmulg _ _ | .fsqrt _ _ | .pdecomp _ _ _ | .keyld _ | .keypub _ | .keyclr
  | .verify _ _ _ _ => false

/-- The shapes of the outcome of a command. -/
def EndsWell (i : Instr) (s : State) (o : Host.Outcome State Fault Refusal) : Prop :=
  (∃ e, o = .next (s.raiseError e)) ∨ (∃ t : State, o = .next t.finish) ∨
  (Instr.drawsNonce i = true ∧ (o = .next s ∨ ∃ r, o = .next (s.keepRatchet r)))

theorem endsWell_guarded (i : Instr) (s : State) (cs : List Check) (t : State) :
    EndsWell i s (guarded cs s t.finish) := by
  rcases guarded_cases cs s t.finish with ⟨-, h⟩ | ⟨e, -, h⟩
  · exact .inr (.inl ⟨t, h⟩)
  · exact .inl ⟨e, h⟩

theorem endsWell_nonce {i : Instr} (hi : Instr.drawsNonce i = true) (s : State) (cs : List Check) (z : Val)
    {use : Val → State → State} (hu : ∀ k t, ∃ u : State, use k t = u.finish) :
    EndsWell i s (guarded cs s (nonceTurn s z use)) := by
  rcases guarded_cases cs s (nonceTurn s z use) with ⟨-, h⟩ | ⟨e, -, h⟩
  · rcases nonceTurn_cases s z use with ⟨-, hn⟩ | ⟨-, -, hn⟩ | ⟨-, -, hn⟩
    · exact .inr (.inr ⟨hi, .inl (by rw [h, hn])⟩)
    · exact .inr (.inr ⟨hi, .inr ⟨_, by rw [h, hn]⟩⟩)
    · obtain ⟨u, he⟩ := hu (turnCandidate s.hmac256 s.key.secret z s.work).V
        (s.logRequests (turnCandidate s.hmac256 s.key.secret z s.work).sent)
      exact .inr (.inl ⟨u, by rw [h, hn, he]⟩)
  · exact .inl ⟨e, h⟩

/-- A command ends in its error entry or in completion; one that draws a nonce may also go on (R72, R283). -/
theorem exec_shape (i : Instr) (s : State) : EndsWell i s (exec i s) := by
  cases i
  case nonce rd rz => exact endsWell_nonce rfl s _ _ fun k t => ⟨_, rfl⟩
  case sign rr rs rz => exact endsWell_nonce rfl s _ _ fun k t => ⟨_, rfl⟩
  case nop => exact endsWell_guarded _ s [] s
  case ldi rd imm => exact endsWell_guarded _ s [] (s.writeReg rd (tagged .int imm.toNat))
  case clr rd => exact endsWell_guarded _ s [] (s.writeReg rd ⟨.empty, 0⟩)
  case pclr pd => exact endsWell_guarded _ s [] (s.writePoint pd PointReg.nothing)
  case pinf pd => exact endsWell_guarded _ s [] (s.writePoint pd Point.identity.toReg)
  case keyclr => exact endsWell_guarded _ s [] (s.writeKey ⟨false, 0, PointReg.nothing⟩)
  all_goals exact endsWell_guarded _ s _ _

/-- Performing a command never faults and is never refused (R340, R350). -/
theorem exec_next (i : Instr) (s : State) : ∃ t, exec i s = .next t := by
  rcases exec_shape i s with ⟨e, h⟩ | ⟨t, h⟩ | ⟨-, h | ⟨r, h⟩⟩ <;> exact ⟨_, h⟩

end Sys2Proof.Machine
end

