-- ==== Sys2Proof/Laws/Group.lean ====
section
/-! SUPPORT. The curve as a Weierstrass curve over `ZMod P`, and the group element that a point value stands for: the six
lines of addition (43_point.md R205) and the double-and-add loop (44_secp256k1_scalar.md R241) compute in that group. -/

namespace Sys2Proof.Machine

open Sys2Proof

/-- `y² = x³ + 7` over the field of `P` (R10). -/
abbrev groupCurve : WeierstrassCurve.Affine (ZMod Config.P) := ⟨0, 0, 0, 0, 7⟩

theorem primeP : Fact Config.P.Prime := ⟨Config.prime_P⟩

theorem groupCurve_equation (x y : ZMod Config.P) : groupCurve.Equation x y ↔ y * y = x * x * x + 7 := by
  rw [WeierstrassCurve.Affine.equation_iff]
  simp only [zero_mul, add_zero]
  constructor <;> intro h <;> linear_combination h

theorem small_ne_zero {n : Nat} (h0 : 0 < n) (h : n < Config.P) : (n : ZMod Config.P) ≠ 0 := by
  rw [Ne, ZMod.natCast_eq_zero_iff]
  exact fun hd => absurd (Nat.le_of_dvd h0 hd) (by omega)

theorem two_ne_zero_P : (2 : ZMod Config.P) ≠ 0 := by
  have := small_ne_zero (n := 2) (by decide) (by decide)
  exact_mod_cast this

/-- The curve has no singular point. -/
theorem groupCurve_nonsingular {x y : ZMod Config.P} (h : y * y = x * x * x + 7) : groupCurve.Nonsingular x y := by
  have hD : groupCurve.Δ ≠ 0 := by
    have h1 : groupCurve.Δ = -((21168 : Nat) : ZMod Config.P) := by
      simp [WeierstrassCurve.Δ, WeierstrassCurve.b₂, WeierstrassCurve.b₄, WeierstrassCurve.b₆, WeierstrassCurve.b₈]
      norm_num
    rw [h1, neg_ne_zero]
    exact small_ne_zero (by decide) (by decide)
  exact (WeierstrassCurve.Affine.equation_iff_nonsingular_of_Δ_ne_zero hD).mp ((groupCurve_equation x y).mpr h)

/-- The point value `A` stands for the group element `Q`. -/
def Point.StandsFor (A : Point) (Q : groupCurve.Point) : Prop :=
  match A with
  | .identity => Q = 0
  | .affine x y => x < Config.P ∧ y < Config.P ∧ ∃ h : groupCurve.Nonsingular (x : ZMod Config.P) (y : ZMod Config.P),
      Q = .some _ _ h

/-- Every affine point on the curve stands for a group element. -/
theorem Point.standsFor_of_onCurve {x y : Nat} (hx : x < Config.P) (hy : y < Config.P) (h : onCurve x y = true) :
    ∃ Q, (Point.affine x y).StandsFor Q :=
  ⟨_, hx, hy, groupCurve_nonsingular ((onCurve_iff x y).mp h), rfl⟩

/-- What stands for a group element is on the curve. -/
theorem Point.onCurve_of_standsFor {x y : Nat} {Q : groupCurve.Point} (h : (Point.affine x y).StandsFor Q) :
    x < Config.P ∧ y < Config.P ∧ onCurve x y = true := by
  obtain ⟨hx, hy, hn, -⟩ := h
  exact ⟨hx, hy, (onCurve_iff x y).mpr ((groupCurve_equation _ _).mp hn.1)⟩

/-- Two point values that stand for one group element are equal. -/
theorem Point.standsFor_inj {A B : Point} {Q : groupCurve.Point} (hA : A.StandsFor Q) (hB : B.StandsFor Q) : A = B := by
  cases A with
  | identity =>
    cases B with
    | identity => rfl
    | affine x y =>
      obtain ⟨-, -, h, rfl⟩ := hB
      exact absurd hA (WeierstrassCurve.Affine.Point.some_ne_zero h)
  | affine x y =>
    obtain ⟨hx, hy, h, rfl⟩ := hA
    cases B with
    | identity => exact absurd hB (WeierstrassCurve.Affine.Point.some_ne_zero h)
    | affine u v =>
      obtain ⟨hu, hv, h', he⟩ := hB
      simp only [WeierstrassCurve.Affine.Point.some.injEq] at he
      rw [residue_inj hx hu he.1, residue_inj hy hv he.2]

theorem Point.standsFor_identity : Point.identity.StandsFor 0 := rfl

/-- The common end of the chord and the tangent line stands for the sum. -/
theorem lineThrough_standsFor {s x1 y1 x2 : Nat} {X Y L : ZMod Config.P} (hs : (s : ZMod Config.P) = L)
    (hX : X = L * L - x1 - x2) (hY : Y = L * (x1 - X) - y1) (h : groupCurve.Nonsingular X Y) :
    (lineThrough s x1 y1 x2).StandsFor (.some _ _ h) := by
  subst hs
  have ex : ((subMod Config.P (subMod Config.P (mulMod Config.P s s) x1) x2 : Nat) : ZMod Config.P) = X := by
    rw [cast_subMod Config.P_pos, cast_subMod Config.P_pos, cast_mulMod, hX]
  have ey : ((subMod Config.P (mulMod Config.P s (subMod Config.P x1
      (subMod Config.P (subMod Config.P (mulMod Config.P s s) x1) x2))) y1 : Nat) : ZMod Config.P) = Y := by
    rw [cast_subMod Config.P_pos, cast_mulMod, cast_subMod Config.P_pos, ex, hY]
  refine ⟨subMod_lt Config.P_pos _ _, subMod_lt Config.P_pos _ _, ?_, ?_⟩
  · rw [ex, ey]; exact h
  · simp only [WeierstrassCurve.Affine.Point.some.injEq]
    exact ⟨ex.symm, ey.symm⟩

/-- The six lines of addition compute the sum of the group (R205). -/
theorem Point.add_standsFor [Fact Config.P.Prime] {A B : Point} {Q S : groupCurve.Point} (hA : A.StandsFor Q)
    (hB : B.StandsFor S) : (A.add B).StandsFor (Q + S) := by
  cases A with
  | identity =>
    rw [show Q = 0 from hA, zero_add]
    simpa [Point.add] using hB
  | affine x1 y1 =>
    cases B with
    | identity =>
      rw [show S = 0 from hB, add_zero]
      simpa [Point.add] using hA
    | affine x2 y2 =>
      obtain ⟨hx1, hy1, h1, rfl⟩ := hA
      obtain ⟨hx2, hy2, h2, rfl⟩ := hB
      have e1 := (groupCurve_equation _ _).mp h1.1
      have e2 := (groupCurve_equation _ _).mp h2.1
      simp only [Point.add]
      split
      · next hc =>
        obtain ⟨hx, hy⟩ := hc
        subst hx
        have hne : (y1 : ZMod Config.P) ≠ y2 := fun h => hy (residue_inj hy1 hy2 h)
        have hsq : ((y1 : ZMod Config.P) - y2) * (y1 + y2) = 0 := by linear_combination e1 - e2
        have hneg : (y1 : ZMod Config.P) = -y2 := by
          rcases mul_eq_zero.mp hsq with h | h
          · exact absurd (sub_eq_zero.mp h) hne
          · linear_combination h
        exact WeierstrassCurve.Affine.Point.add_of_Y_eq rfl (by simp [WeierstrassCurve.Affine.negY, hneg])
      · next hc =>
        split
        · next hx =>
          have hne : (x1 : ZMod Config.P) ≠ x2 := fun h => hx (residue_inj hx1 hx2 h)
          rw [WeierstrassCurve.Affine.Point.add_of_X_ne hne]
          refine lineThrough_standsFor (L := groupCurve.slope x1 x2 y1 y2) ?_ ?_ ?_ _
          · rw [WeierstrassCurve.Affine.slope_of_X_ne hne]
            rw [cast_divMod_P, cast_subMod Config.P_pos, cast_subMod Config.P_pos, ← neg_sub (y1 : ZMod Config.P),
              ← neg_sub (x1 : ZMod Config.P), inv_neg, neg_mul_neg]
            rfl
          · simp [WeierstrassCurve.Affine.addX, pow_two]
          · simp only [WeierstrassCurve.Affine.addY, WeierstrassCurve.Affine.negAddY, WeierstrassCurve.Affine.negY]
            ring
        · next hx =>
          have hxe : x1 = x2 := by omega
          subst hxe
          have hye : y1 = y2 := by omega
          subst hye
          split
          · next h0 =>
            subst h0
            exact WeierstrassCurve.Affine.Point.add_of_Y_eq rfl (by simp [WeierstrassCurve.Affine.negY])
          · next h0 =>
            have hy0 : (y1 : ZMod Config.P) ≠ 0 := small_ne_zero (by omega) hy1
            have hd : (y1 : ZMod Config.P) - groupCurve.negY x1 y1 = y1 + y1 := by
              simp [WeierstrassCurve.Affine.negY]
            have hyy : (y1 : ZMod Config.P) + y1 ≠ 0 := by
              rw [← two_mul]; exact mul_ne_zero two_ne_zero_P hy0
            have hne : (y1 : ZMod Config.P) ≠ groupCurve.negY x1 y1 := by
              intro h; apply hyy; rw [← hd, sub_eq_zero]; exact h
            rw [WeierstrassCurve.Affine.Point.add_self_of_Y_ne hne]
            refine lineThrough_standsFor (L := groupCurve.slope x1 x1 y1 y1) ?_ ?_ ?_ _
            · rw [WeierstrassCurve.Affine.slope_of_Y_ne rfl hne, hd]
              rw [cast_divMod_P, cast_mod, cast_addMod, div_eq_mul_inv]
              have hnum : ((3 * x1 * x1 + Config.curveA : Nat) : ZMod Config.P) =
                  3 * (x1 : ZMod Config.P) ^ 2 + 2 * groupCurve.a₂ * x1 + groupCurve.a₄ - groupCurve.a₁ * y1 := by
                push_cast [Config.curveA]
                ring
              rw [hnum]
            · simp [WeierstrassCurve.Affine.addX, pow_two]
            · simp only [WeierstrassCurve.Affine.addY, WeierstrassCurve.Affine.negAddY, WeierstrassCurve.Affine.negY]
              ring

/-- The loop adds the multiple of the running point to the running sum (R241). -/
theorem scalarLoop_standsFor [Fact Config.P.Prime] : ∀ (fuel coef : Nat) {cur res : Point} {C S : groupCurve.Point},
    coef < 2 ^ fuel → cur.StandsFor C → res.StandsFor S → (scalarLoop fuel coef cur res).StandsFor (S + coef • C)
  | 0, coef, cur, res, C, S, hf, _, hS => by
    have : coef = 0 := by simpa using hf
    subst this
    simpa [scalarLoop] using hS
  | fuel + 1, coef, cur, res, C, S, hf, hC, hS => by
    unfold scalarLoop
    split
    · next h => subst h; simpa using hS
    · have hCC := Point.add_standsFor hC hC
      split
      · next h =>
        have key := scalarLoop_standsFor fuel (coef / 2) (by omega) hCC (Point.add_standsFor hS hC)
        have he : S + C + (coef / 2) • (C + C) = S + coef • C := by
          conv_rhs => rw [show coef = 2 * (coef / 2) + 1 by omega, add_smul, mul_comm, mul_smul, two_smul, one_smul]
          abel
        rwa [he] at key
      · next h =>
        have key := scalarLoop_standsFor fuel (coef / 2) (by omega) hCC hS
        have he : S + (coef / 2) • (C + C) = S + coef • C := by
          conv_rhs => rw [show coef = (coef / 2) * 2 by omega, mul_smul, two_smul]
        rwa [he] at key

/-- `ScalarMul(k, A)` is the multiple by `k mod N` (R241, R247). -/
theorem scalarMul_standsFor [Fact Config.P.Prime] (k : Nat) {A : Point} {Q : groupCurve.Point} (h : A.StandsFor Q) :
    (scalarMul k A).StandsFor ((k % Config.N) • Q) := by
  have := scalarLoop_standsFor 256 (k % Config.N) (lt_trans (Nat.mod_lt _ Config.N_pos) Config.N_lt) h
    Point.standsFor_identity
  rwa [zero_add] at this

end Sys2Proof.Machine
end

