-- ==== Sys2Proof/Laws/Order.lean ====
section
/-! SUPPORT. The order of the curve (44_secp256k1_scalar.md R242): the group has exactly `N` elements, so every scalar counts
modulo `N`. At most two ordinates for each abscissa bound the order below `3·N`; `G` has order `N`; and no point is its own
opposite, so that `2·N` is out. -/

namespace Sys2Proof.Machine

open Sys2Proof

/-- `-7` is no cube modulo `P` (R202). -/
theorem cube_ne_neg_seven (x : ZMod Config.P) : x * x * x + 7 ≠ 0 := by
  have := primeP
  intro h
  have h3 : x ^ 3 = ((Config.P - 7 : Nat) : ZMod Config.P) := by
    rw [Nat.cast_sub (by decide), ZMod.natCast_self]
    push_cast
    linear_combination h
  have hx : x ≠ 0 := by
    rintro rfl
    exact small_ne_zero (n := 7) (by decide) (by decide) (by push_cast; linear_combination h)
  have h1 : (x ^ 3) ^ ((Config.P - 1) / 3) = 1 := by
    rw [← pow_mul, show 3 * ((Config.P - 1) / 3) = Config.P - 1 by decide]
    exact ZMod.pow_card_sub_one_eq_one hx
  rw [h3, ← cast_powMod Config.P_pos (by decide), ← Nat.cast_one] at h1
  exact absurd (residue_inj (powMod_lt Config.P_pos _ _) (by decide) h1) (by decide +kernel)

/-- No point of the curve is its own opposite but 0. -/
theorem no_two_torsion [Fact Config.P.Prime] (Q : groupCurve.Point) (h : 2 • Q = 0) : Q = 0 := by
  rcases Q with _ | ⟨x, y, hn⟩
  · rfl
  · exfalso
    rw [two_nsmul, add_eq_zero_iff_eq_neg] at h
    simp only [WeierstrassCurve.Affine.Point.neg_some, WeierstrassCurve.Affine.Point.some.injEq, true_and] at h
    have hy : (2 : ZMod Config.P) * y = 0 := by
      have : y = -y := by simpa [WeierstrassCurve.Affine.negY] using h
      linear_combination this
    have h0 : y = 0 := (mul_eq_zero.mp hy).resolve_left two_ne_zero_P
    have he := (groupCurve_equation _ _).mp hn.1
    rw [h0] at he
    exact cube_ne_neg_seven x (by linear_combination -he)

/-- The abscissa and the parity of the ordinate tell a point. -/
def pointTag : groupCurve.Point → Option (ZMod Config.P × Bool)
  | .zero => none
  | .some x y _ => some (x, decide (y.val % 2 = 1))

/-- Points of one abscissa are opposite or equal, and the ordinates of opposite points differ in parity. -/
theorem pointTag_injective : Function.Injective pointTag := by
  have := primeP
  intro A B h
  rcases A with _ | ⟨x, y, hn⟩ <;> rcases B with _ | ⟨u, v, hm⟩
  · rfl
  · cases h
  · cases h
  · simp only [pointTag, Option.some.injEq, Prod.mk.injEq, decide_eq_decide] at h
    obtain ⟨rfl, hp⟩ := h
    have e1 := (groupCurve_equation _ _).mp hn.1
    have e2 := (groupCurve_equation _ _).mp hm.1
    have hs : (y - v) * (y + v) = 0 := by linear_combination e1 - e2
    have hyv : y = v := by
      rcases mul_eq_zero.mp hs with h | h
      · exact sub_eq_zero.mp h
      · have hy : y = -v := by linear_combination h
        by_cases hv : v = 0
        · rw [hy, hv, neg_zero]
        · exfalso
          have : NeZero v := ⟨hv⟩
          have hval : y.val = Config.P - v.val := by rw [hy, ZMod.val_neg_of_ne_zero]
          have := ZMod.val_lt v
          have hodd : Config.P % 2 = 1 := by decide
          rw [hval] at hp
          omega
    subst hyv
    rfl

theorem curve_finite : Finite groupCurve.Point := by
  have := primeP
  have : NeZero Config.P := ⟨by decide⟩
  exact Finite.of_injective _ pointTag_injective

theorem curve_card_le : Nat.card groupCurve.Point ≤ 2 * Config.P + 1 := by
  have := primeP
  have : NeZero Config.P := ⟨by decide⟩
  have h := Nat.card_le_card_of_injective _ pointTag_injective
  rw [Nat.card_eq_fintype_card (α := Option (ZMod Config.P × Bool)), Fintype.card_option, Fintype.card_prod, ZMod.card,
    Fintype.card_bool] at h
  omega

/-- A loop that ends in `R` shows what the multiple is. -/
theorem loop_standsFor [Fact Config.P.Prime] {k : Nat} {A R : Point} {Q : groupCurve.Point} (hk : k < 2 ^ 256)
    (h : A.StandsFor Q) (hl : scalarLoop 256 k A .identity = R) : R.StandsFor (k • Q) := by
  rw [← hl, ← zero_add (k • Q)]
  exact scalarLoop_standsFor 256 k hk h Point.standsFor_identity

/-- `N` doublings and additions over the bits of the unreduced `N` lead back to the identity. -/
theorem basePoint_loop : scalarLoop 256 Config.N basePoint .identity = .identity := by decide +kernel

theorem basePoint_order [Fact Config.P.Prime] {Q : groupCurve.Point} (h : basePoint.StandsFor Q) : Config.N • Q = 0 :=
  loop_standsFor Config.N_lt h basePoint_loop

/-- The group has `N` elements. -/
theorem curve_card [Fact Config.P.Prime] : Nat.card groupCurve.Point = Config.N := by
  have := curve_finite
  obtain ⟨G, hG⟩ := Point.standsFor_of_onCurve (x := Config.GX) (y := Config.GY) (by decide) (by decide) (by decide)
  have hN := basePoint_order hG
  have hne : G ≠ 0 := by
    obtain ⟨-, -, h, rfl⟩ := hG
    exact WeierstrassCurve.Affine.Point.some_ne_zero h
  have := Fact.mk Config.prime_N
  have ho : addOrderOf G = Config.N := addOrderOf_eq_prime hN hne
  obtain ⟨k, hk⟩ : Config.N ∣ Nat.card groupCurve.Point := ho ▸ addOrderOf_dvd_natCard G
  have hle := curve_card_le
  have hb : 2 * Config.P + 1 < Config.N * 3 := by decide
  have hk3 : k < 3 := by
    by_contra h
    have := Nat.mul_le_mul_left Config.N (show 3 ≤ k by omega)
    omega
  have hpos : 0 < Nat.card groupCurve.Point := Nat.card_pos
  interval_cases k
  · omega
  · omega
  · exfalso
    have := Fact.mk Nat.prime_two
    obtain ⟨T, hT⟩ := exists_prime_addOrderOf_dvd_card' (G := groupCurve.Point) 2
      (by rw [hk]; exact ⟨Config.N, mul_comm _ _⟩)
    have h0 := no_two_torsion T (by rw [← hT]; exact addOrderOf_nsmul_eq_zero T)
    rw [h0, addOrderOf_zero] at hT
    omega

/-- `N` times any point is the identity. -/
theorem order_nsmul [Fact Config.P.Prime] (Q : groupCurve.Point) : Config.N • Q = 0 := by
  have := curve_finite
  rw [← curve_card]
  exact card_nsmul_eq_zero'

/-- `ScalarMul(k, A)` is the multiple by `k` itself (R241, R247). -/
theorem scalarMul_standsFor_nsmul [Fact Config.P.Prime] (k : Nat) {A : Point} {Q : groupCurve.Point} (h : A.StandsFor Q) :
    (scalarMul k A).StandsFor (k • Q) := by
  have hk : k • Q = (k % Config.N) • Q := by
    conv_lhs => rw [← Nat.mod_add_div k Config.N, add_nsmul, mul_nsmul, order_nsmul, nsmul_zero, add_zero]
  rw [hk]
  exact scalarMul_standsFor k h

end Sys2Proof.Machine
end

