-- ==== Sys2Proof/Laws/PerInstr.lean ====
section
/-! SUPPORT. One statement for every constructor: the word the encoder makes has the fixed bits of the command's row of
spec/opcode_table.json (30_encoding.md R94, R96, R97). -/

namespace Sys2Proof.Laws.TableRow

open Sys2Proof

/-- A run of bits that the row of a command fixes: `c[hi:lo] = value`. -/
structure FixedBits where
  hi : Nat
  lo : Nat
  value : Nat
  deriving DecidableEq, Repr

/-- The entries `fixed` of the rows of spec/opcode_table.json. -/
def fixedBits : Instr → List FixedBits
  | .nop => [⟨31, 0, 0x0⟩]
  | .ldi _ _ => [⟨19, 16, 0x0⟩, ⟨31, 24, 0x1⟩]
  | .ldc _ _ => [⟨19, 8, 0x0⟩, ⟨31, 24, 0x2⟩]
  | .mov _ _ => [⟨15, 0, 0x0⟩, ⟨31, 24, 0x3⟩]
  | .clr _ => [⟨19, 0, 0x0⟩, ⟨31, 24, 0x4⟩]
  | .pmov _ _ => [⟨15, 0, 0x0⟩, ⟨19, 19, 0x0⟩, ⟨31, 23, 0xA⟩]
  | .pclr _ => [⟨19, 0, 0x0⟩, ⟨31, 23, 0xC⟩]
  | .fnew _ _ _ => [⟨15, 1, 0x0⟩, ⟨31, 24, 0x10⟩]
  | .fint _ _ => [⟨15, 0, 0x0⟩, ⟨31, 24, 0x11⟩]
  | .ired _ _ _ => [⟨15, 1, 0x0⟩, ⟨31, 24, 0x12⟩]
  | .icmp _ _ => [⟨15, 0, 0x0⟩, ⟨31, 24, 0x13⟩]
  | .fadd _ _ _ => [⟨11, 0, 0x0⟩, ⟨31, 24, 0x20⟩]
  | .fsub _ _ _ => [⟨11, 0, 0x0⟩, ⟨31, 24, 0x21⟩]
  | .fmul _ _ _ => [⟨11, 0, 0x0⟩, ⟨31, 24, 0x22⟩]
  | .fdiv _ _ _ => [⟨11, 0, 0x0⟩, ⟨31, 24, 0x23⟩]
  | .finv _ _ => [⟨15, 0, 0x0⟩, ⟨31, 24, 0x24⟩]
  | .fpow _ _ _ => [⟨11, 0, 0x0⟩, ⟨31, 24, 0x25⟩]
  | .feq _ _ => [⟨15, 0, 0x0⟩, ⟨31, 24, 0x26⟩]
  | .mmul _ _ _ => [⟨11, 0, 0x0⟩, ⟨31, 24, 0x30⟩]
  | .mto _ _ => [⟨15, 0, 0x0⟩, ⟨31, 24, 0x31⟩]
  | .mfrom _ _ => [⟨15, 0, 0x0⟩, ⟨31, 24, 0x32⟩]
  | .pnew _ _ _ => [⟨11, 0, 0x0⟩, ⟨31, 23, 0x80⟩]
  | .pinf _ => [⟨19, 0, 0x0⟩, ⟨31, 23, 0x82⟩]
  | .padd _ _ _ => [⟨11, 0, 0x0⟩, ⟨15, 15, 0x0⟩, ⟨19, 19, 0x0⟩, ⟨31, 23, 0x84⟩]
  | .pgetx _ _ => [⟨15, 0, 0x0⟩, ⟨19, 19, 0x0⟩, ⟨31, 24, 0x43⟩]
  | .pgety _ _ => [⟨15, 0, 0x0⟩, ⟨19, 19, 0x0⟩, ⟨31, 24, 0x44⟩]
  | .peq _ _ => [⟨15, 0, 0x0⟩, ⟨19, 19, 0x0⟩, ⟨31, 23, 0x8A⟩]
  | .ptest _ => [⟨19, 0, 0x0⟩, ⟨31, 23, 0x8C⟩]
  | .pmul _ _ _ => [⟨11, 0, 0x0⟩, ⟨15, 15, 0x0⟩, ⟨31, 23, 0xA0⟩]
  | .pmulg _ _ => [⟨15, 0, 0x0⟩, ⟨31, 23, 0xA2⟩]
  | .fsqrt _ _ => [⟨15, 0, 0x0⟩, ⟨31, 24, 0x52⟩]
  | .pdecomp _ _ _ => [⟨15, 1, 0x0⟩, ⟨31, 23, 0xA6⟩]
  | .keyld _ => [⟨19, 0, 0x0⟩, ⟨31, 24, 0x60⟩]
  | .keypub _ => [⟨19, 0, 0x0⟩, ⟨31, 23, 0xC2⟩]
  | .keyclr => [⟨31, 0, 0x62000000⟩]
  | .nonce _ _ => [⟨15, 0, 0x0⟩, ⟨31, 24, 0x63⟩]
  | .sign _ _ _ => [⟨11, 0, 0x0⟩, ⟨31, 24, 0x64⟩]
  | .verify _ _ _ _ => [⟨7, 0, 0x0⟩, ⟨11, 11, 0x0⟩, ⟨31, 24, 0x65⟩]

/-- The encoded word has the fixed bits of its row. -/
def Statement (i : Instr) : Prop := ∀ f ∈ fixedBits i, bits (encode i) f.hi f.lo = f.value

/-- A packed word as a number. -/
theorem packWord_toNat {op f1 f2 f3 f4 imm : Nat} (h : op * 2 ^ 24 + f1 * 2 ^ 20 + f2 * 2 ^ 16 + f3 * 2 ^ 12 + f4 * 2 ^ 8 +
    imm < 2 ^ 32) :
    (packWord op f1 f2 f3 f4 imm).toNat = op * 2 ^ 24 + f1 * 2 ^ 20 + f2 * 2 ^ 16 + f3 * 2 ^ 12 + f4 * 2 ^ 8 + imm := by
  rw [packWord, BitVec.toNat_ofNat, Nat.mod_eq_of_lt h]

theorem FieldSel.bit_lt (m : FieldSel) : m.bit < 2 := by cases m <;> decide

theorem nop : Statement (.nop) := by
  simp only [Statement, fixedBits, List.forall_mem_cons, List.not_mem_nil, false_imp_iff, implies_true, and_true, bits, encode,
    Instr.opcode]
  rw [packWord_toNat (by omega)]
  omega

theorem ldi (rd : RegIdx) (imm16 : BitVec 16) : Statement (.ldi rd imm16) := by
  have h0 := rd.isLt
  have h1 := imm16.isLt
  simp only [Statement, fixedBits, List.forall_mem_cons, List.not_mem_nil, false_imp_iff, implies_true, and_true, bits, encode,
    Instr.opcode]
  rw [packWord_toNat (by omega)]
  omega

theorem ldc (rd : RegIdx) (idx : BitVec 8) : Statement (.ldc rd idx) := by
  have h0 := rd.isLt
  have h1 := idx.isLt
  simp only [Statement, fixedBits, List.forall_mem_cons, List.not_mem_nil, false_imp_iff, implies_true, and_true, bits, encode,
    Instr.opcode]
  rw [packWord_toNat (by omega)]
  omega

theorem mov (rd ra : RegIdx) : Statement (.mov rd ra) := by
  have h0 := rd.isLt
  have h1 := ra.isLt
  simp only [Statement, fixedBits, List.forall_mem_cons, List.not_mem_nil, false_imp_iff, implies_true, and_true, bits, encode,
    Instr.opcode]
  rw [packWord_toNat (by omega)]
  omega

theorem clr (rd : RegIdx) : Statement (.clr rd) := by
  have h0 := rd.isLt
  simp only [Statement, fixedBits, List.forall_mem_cons, List.not_mem_nil, false_imp_iff, implies_true, and_true, bits, encode,
    Instr.opcode]
  rw [packWord_toNat (by omega)]
  omega

theorem pmov (pd pa : PtIdx) : Statement (.pmov pd pa) := by
  have h0 := pd.isLt
  have h1 := pa.isLt
  simp only [Statement, fixedBits, List.forall_mem_cons, List.not_mem_nil, false_imp_iff, implies_true, and_true, bits, encode,
    Instr.opcode]
  rw [packWord_toNat (by omega)]
  omega

theorem pclr (pd : PtIdx) : Statement (.pclr pd) := by
  have h0 := pd.isLt
  simp only [Statement, fixedBits, List.forall_mem_cons, List.not_mem_nil, false_imp_iff, implies_true, and_true, bits, encode,
    Instr.opcode]
  rw [packWord_toNat (by omega)]
  omega

theorem fnew (rd ra : RegIdx) (m : FieldSel) : Statement (.fnew rd ra m) := by
  have h0 := rd.isLt
  have h1 := ra.isLt
  have h2 := FieldSel.bit_lt m
  simp only [Statement, fixedBits, List.forall_mem_cons, List.not_mem_nil, false_imp_iff, implies_true, and_true, bits, encode,
    Instr.opcode]
  rw [packWord_toNat (by omega)]
  omega

theorem fint (rd ra : RegIdx) : Statement (.fint rd ra) := by
  have h0 := rd.isLt
  have h1 := ra.isLt
  simp only [Statement, fixedBits, List.forall_mem_cons, List.not_mem_nil, false_imp_iff, implies_true, and_true, bits, encode,
    Instr.opcode]
  rw [packWord_toNat (by omega)]
  omega

theorem ired (rd ra : RegIdx) (m : FieldSel) : Statement (.ired rd ra m) := by
  have h0 := rd.isLt
  have h1 := ra.isLt
  have h2 := FieldSel.bit_lt m
  simp only [Statement, fixedBits, List.forall_mem_cons, List.not_mem_nil, false_imp_iff, implies_true, and_true, bits, encode,
    Instr.opcode]
  rw [packWord_toNat (by omega)]
  omega

theorem icmp (ra rb : RegIdx) : Statement (.icmp ra rb) := by
  have h0 := ra.isLt
  have h1 := rb.isLt
  simp only [Statement, fixedBits, List.forall_mem_cons, List.not_mem_nil, false_imp_iff, implies_true, and_true, bits, encode,
    Instr.opcode]
  rw [packWord_toNat (by omega)]
  omega

theorem fadd (rd ra rb : RegIdx) : Statement (.fadd rd ra rb) := by
  have h0 := rd.isLt
  have h1 := ra.isLt
  have h2 := rb.isLt
  simp only [Statement, fixedBits, List.forall_mem_cons, List.not_mem_nil, false_imp_iff, implies_true, and_true, bits, encode,
    Instr.opcode]
  rw [packWord_toNat (by omega)]
  omega

theorem fsub (rd ra rb : RegIdx) : Statement (.fsub rd ra rb) := by
  have h0 := rd.isLt
  have h1 := ra.isLt
  have h2 := rb.isLt
  simp only [Statement, fixedBits, List.forall_mem_cons, List.not_mem_nil, false_imp_iff, implies_true, and_true, bits, encode,
    Instr.opcode]
  rw [packWord_toNat (by omega)]
  omega

theorem fmul (rd ra rb : RegIdx) : Statement (.fmul rd ra rb) := by
  have h0 := rd.isLt
  have h1 := ra.isLt
  have h2 := rb.isLt
  simp only [Statement, fixedBits, List.forall_mem_cons, List.not_mem_nil, false_imp_iff, implies_true, and_true, bits, encode,
    Instr.opcode]
  rw [packWord_toNat (by omega)]
  omega

theorem fdiv (rd ra rb : RegIdx) : Statement (.fdiv rd ra rb) := by
  have h0 := rd.isLt
  have h1 := ra.isLt
  have h2 := rb.isLt
  simp only [Statement, fixedBits, List.forall_mem_cons, List.not_mem_nil, false_imp_iff, implies_true, and_true, bits, encode,
    Instr.opcode]
  rw [packWord_toNat (by omega)]
  omega

theorem finv (rd ra : RegIdx) : Statement (.finv rd ra) := by
  have h0 := rd.isLt
  have h1 := ra.isLt
  simp only [Statement, fixedBits, List.forall_mem_cons, List.not_mem_nil, false_imp_iff, implies_true, and_true, bits, encode,
    Instr.opcode]
  rw [packWord_toNat (by omega)]
  omega

theorem fpow (rd ra rb : RegIdx) : Statement (.fpow rd ra rb) := by
  have h0 := rd.isLt
  have h1 := ra.isLt
  have h2 := rb.isLt
  simp only [Statement, fixedBits, List.forall_mem_cons, List.not_mem_nil, false_imp_iff, implies_true, and_true, bits, encode,
    Instr.opcode]
  rw [packWord_toNat (by omega)]
  omega

theorem feq (ra rb : RegIdx) : Statement (.feq ra rb) := by
  have h0 := ra.isLt
  have h1 := rb.isLt
  simp only [Statement, fixedBits, List.forall_mem_cons, List.not_mem_nil, false_imp_iff, implies_true, and_true, bits, encode,
    Instr.opcode]
  rw [packWord_toNat (by omega)]
  omega

theorem mmul (rd ra rb : RegIdx) : Statement (.mmul rd ra rb) := by
  have h0 := rd.isLt
  have h1 := ra.isLt
  have h2 := rb.isLt
  simp only [Statement, fixedBits, List.forall_mem_cons, List.not_mem_nil, false_imp_iff, implies_true, and_true, bits, encode,
    Instr.opcode]
  rw [packWord_toNat (by omega)]
  omega

theorem mto (rd ra : RegIdx) : Statement (.mto rd ra) := by
  have h0 := rd.isLt
  have h1 := ra.isLt
  simp only [Statement, fixedBits, List.forall_mem_cons, List.not_mem_nil, false_imp_iff, implies_true, and_true, bits, encode,
    Instr.opcode]
  rw [packWord_toNat (by omega)]
  omega

theorem mfrom (rd ra : RegIdx) : Statement (.mfrom rd ra) := by
  have h0 := rd.isLt
  have h1 := ra.isLt
  simp only [Statement, fixedBits, List.forall_mem_cons, List.not_mem_nil, false_imp_iff, implies_true, and_true, bits, encode,
    Instr.opcode]
  rw [packWord_toNat (by omega)]
  omega

theorem pnew (pd : PtIdx) (rx ry : RegIdx) : Statement (.pnew pd rx ry) := by
  have h0 := pd.isLt
  have h1 := rx.isLt
  have h2 := ry.isLt
  simp only [Statement, fixedBits, List.forall_mem_cons, List.not_mem_nil, false_imp_iff, implies_true, and_true, bits, encode,
    Instr.opcode]
  rw [packWord_toNat (by omega)]
  omega

theorem pinf (pd : PtIdx) : Statement (.pinf pd) := by
  have h0 := pd.isLt
  simp only [Statement, fixedBits, List.forall_mem_cons, List.not_mem_nil, false_imp_iff, implies_true, and_true, bits, encode,
    Instr.opcode]
  rw [packWord_toNat (by omega)]
  omega

theorem padd (pd pa pb : PtIdx) : Statement (.padd pd pa pb) := by
  have h0 := pd.isLt
  have h1 := pa.isLt
  have h2 := pb.isLt
  simp only [Statement, fixedBits, List.forall_mem_cons, List.not_mem_nil, false_imp_iff, implies_true, and_true, bits, encode,
    Instr.opcode]
  rw [packWord_toNat (by omega)]
  omega

theorem pgetx (rd : RegIdx) (pa : PtIdx) : Statement (.pgetx rd pa) := by
  have h0 := rd.isLt
  have h1 := pa.isLt
  simp only [Statement, fixedBits, List.forall_mem_cons, List.not_mem_nil, false_imp_iff, implies_true, and_true, bits, encode,
    Instr.opcode]
  rw [packWord_toNat (by omega)]
  omega

theorem pgety (rd : RegIdx) (pa : PtIdx) : Statement (.pgety rd pa) := by
  have h0 := rd.isLt
  have h1 := pa.isLt
  simp only [Statement, fixedBits, List.forall_mem_cons, List.not_mem_nil, false_imp_iff, implies_true, and_true, bits, encode,
    Instr.opcode]
  rw [packWord_toNat (by omega)]
  omega

theorem peq (pa pb : PtIdx) : Statement (.peq pa pb) := by
  have h0 := pa.isLt
  have h1 := pb.isLt
  simp only [Statement, fixedBits, List.forall_mem_cons, List.not_mem_nil, false_imp_iff, implies_true, and_true, bits, encode,
    Instr.opcode]
  rw [packWord_toNat (by omega)]
  omega

theorem ptest (pa : PtIdx) : Statement (.ptest pa) := by
  have h0 := pa.isLt
  simp only [Statement, fixedBits, List.forall_mem_cons, List.not_mem_nil, false_imp_iff, implies_true, and_true, bits, encode,
    Instr.opcode]
  rw [packWord_toNat (by omega)]
  omega

theorem pmul (pd : PtIdx) (rk : RegIdx) (pa : PtIdx) : Statement (.pmul pd rk pa) := by
  have h0 := pd.isLt
  have h1 := rk.isLt
  have h2 := pa.isLt
  simp only [Statement, fixedBits, List.forall_mem_cons, List.not_mem_nil, false_imp_iff, implies_true, and_true, bits, encode,
    Instr.opcode]
  rw [packWord_toNat (by omega)]
  omega

theorem pmulg (pd : PtIdx) (rk : RegIdx) : Statement (.pmulg pd rk) := by
  have h0 := pd.isLt
  have h1 := rk.isLt
  simp only [Statement, fixedBits, List.forall_mem_cons, List.not_mem_nil, false_imp_iff, implies_true, and_true, bits, encode,
    Instr.opcode]
  rw [packWord_toNat (by omega)]
  omega

theorem fsqrt (rd ra : RegIdx) : Statement (.fsqrt rd ra) := by
  have h0 := rd.isLt
  have h1 := ra.isLt
  simp only [Statement, fixedBits, List.forall_mem_cons, List.not_mem_nil, false_imp_iff, implies_true, and_true, bits, encode,
    Instr.opcode]
  rw [packWord_toNat (by omega)]
  omega

theorem pdecomp (pd : PtIdx) (rx : RegIdx) (odd : Bool) : Statement (.pdecomp pd rx odd) := by
  have h0 := pd.isLt
  have h1 := rx.isLt
  have h2 := odd.toNat_lt
  simp only [Statement, fixedBits, List.forall_mem_cons, List.not_mem_nil, false_imp_iff, implies_true, and_true, bits, encode,
    Instr.opcode]
  rw [packWord_toNat (by omega)]
  omega

theorem keyld (rs : RegIdx) : Statement (.keyld rs) := by
  have h0 := rs.isLt
  simp only [Statement, fixedBits, List.forall_mem_cons, List.not_mem_nil, false_imp_iff, implies_true, and_true, bits, encode,
    Instr.opcode]
  rw [packWord_toNat (by omega)]
  omega

theorem keypub (pd : PtIdx) : Statement (.keypub pd) := by
  have h0 := pd.isLt
  simp only [Statement, fixedBits, List.forall_mem_cons, List.not_mem_nil, false_imp_iff, implies_true, and_true, bits, encode,
    Instr.opcode]
  rw [packWord_toNat (by omega)]
  omega

theorem keyclr : Statement (.keyclr) := by
  simp only [Statement, fixedBits, List.forall_mem_cons, List.not_mem_nil, false_imp_iff, implies_true, and_true, bits, encode,
    Instr.opcode]
  rw [packWord_toNat (by omega)]
  omega

theorem nonce (rd rz : RegIdx) : Statement (.nonce rd rz) := by
  have h0 := rd.isLt
  have h1 := rz.isLt
  simp only [Statement, fixedBits, List.forall_mem_cons, List.not_mem_nil, false_imp_iff, implies_true, and_true, bits, encode,
    Instr.opcode]
  rw [packWord_toNat (by omega)]
  omega

theorem sign (rr rs rz : RegIdx) : Statement (.sign rr rs rz) := by
  have h0 := rr.isLt
  have h1 := rs.isLt
  have h2 := rz.isLt
  simp only [Statement, fixedBits, List.forall_mem_cons, List.not_mem_nil, false_imp_iff, implies_true, and_true, bits, encode,
    Instr.opcode]
  rw [packWord_toNat (by omega)]
  omega

theorem verify (rz rr rs : RegIdx) (pq : PtIdx) : Statement (.verify rz rr rs pq) := by
  have h0 := rz.isLt
  have h1 := rr.isLt
  have h2 := rs.isLt
  have h3 := pq.isLt
  simp only [Statement, fixedBits, List.forall_mem_cons, List.not_mem_nil, false_imp_iff, implies_true, and_true, bits, encode,
    Instr.opcode]
  rw [packWord_toNat (by omega)]
  omega

end Sys2Proof.Laws.TableRow
end

