-- ==== Sys2Proof/Laws/Window.lean ====
section
/-! SUPPORT. Everything a host access can do (20_memory.md R62, R63, R71). -/

namespace Sys2Proof.Machine

open Sys2Proof

/-- A read leaves the state alone but for one FAULT bit, and then returns 0 (R62, R69). -/
theorem hostRead_cases (s : State) (off bytes : Nat) :
    s.hostRead off bytes = (0, s.busError) ∨
    (s.runState = .busy ∧ s.hostRead off bytes = (0, s.accessViolation)) ∨
    (accessWellFormed off bytes = true ∧ ∃ w, s.readLocation (locate off) = some w ∧ s.hostRead off bytes = (w, s)) := by
  unfold State.hostRead
  split
  · exact .inl rfl
  · next hw =>
    split
    · next hb => exact .inr (.inl ⟨by simp_all, rfl⟩)
    · split
      · next w h => exact .inr (.inr ⟨by simpa using hw, w, h, rfl⟩)
      · exact .inl rfl

/-- A write sets one FAULT bit, or it has the effect of its location (R63). -/
theorem hostWrite_cases (s : State) (off bytes : Nat) (d : Word) :
    s.hostWrite off bytes d = s.busError ∨
    (s.runState = .busy ∧ s.hostWrite off bytes d = s.accessViolation) ∨
    s.hostWrite off bytes d = s.writeCtrl d ∨
    s.hostWrite off bytes d = s.writeAck d ∨
    (s.runState = .idle ∧ s.hostWrite off bytes d = s.accept d) ∨
    s.hostWrite off bytes d = s.commandOverrun ∨
    ((inRegisterWindow off = true → s.runState ≠ .busy) ∧ ∃ i w, locate off = .regWord i w ∧
      s.hostWrite off bytes d = s.writeRegWord i w d) := by
  unfold State.hostWrite
  split
  · exact .inl rfl
  · split
    · next hb => exact .inr (.inl ⟨by simp_all, rfl⟩)
    · next hb =>
      unfold State.writeLocation
      split
      · exact .inr (.inr (.inl rfl))
      · exact .inr (.inr (.inr (.inl rfl)))
      · unfold State.writeCmd
        split
        · next h => exact .inr (.inr (.inr (.inr (.inl ⟨h, rfl⟩))))
        · exact .inr (.inr (.inr (.inr (.inr (.inl rfl)))))
      · next i w h =>
        exact .inr (.inr (.inr (.inr (.inr (.inr ⟨fun hr => by simpa [hr] using hb, i, w, h, rfl⟩)))))
      all_goals exact .inl rfl

/-- An acknowledgement changes DONE, the error record and DIVZ, and nothing else (R44). -/
theorem writeAck_cases (s : State) (d : Word) :
    ∃ dn rs er dz, s.writeAck d = { s with done := dn, runState := rs, err := er, flags := { s.flags with divz := dz } } ∧
      (rs = s.runState ∧ er = s.err ∨ s.runState = .error ∧ rs = .idle ∧ er = none) ∧ (dn = s.done ∨ dn = false) := by
  unfold State.writeAck State.ackDone State.ackError State.ackDivz State.clearDivz State.returnFromError
  by_cases h0 : d.getLsbD 0 = true <;> by_cases h1 : d.getLsbD 1 = true <;> by_cases h2 : d.getLsbD 2 = true <;>
    by_cases he : s.runState = .error <;> simp only [h0, h1, h2, he, if_true, if_false, State.writeFlags,
      Bool.false_eq_true]
  all_goals first
    | exact ⟨_, _, _, _, rfl, .inr ⟨trivial, rfl, rfl⟩, .inr rfl⟩
    | exact ⟨_, _, _, _, rfl, .inr ⟨trivial, rfl, rfl⟩, .inl rfl⟩
    | exact ⟨_, _, _, _, rfl, .inl ⟨he.symm ▸ rfl, rfl⟩, .inr rfl⟩
    | exact ⟨_, _, _, _, rfl, .inl ⟨he.symm ▸ rfl, rfl⟩, .inl rfl⟩
    | exact ⟨_, _, _, _, rfl, .inl ⟨rfl, rfl⟩, .inr rfl⟩
    | exact ⟨_, _, _, _, rfl, .inl ⟨rfl, rfl⟩, .inl rfl⟩

end Sys2Proof.Machine
end

