-- ==== Sys2Proof/Laws/Step.lean ====
section
/-! SUPPORT. Everything one step can do, once: which agent moved, and with what effect (00_scope.md R16). -/

namespace Sys2Proof.Machine

open Sys2Proof

/-- What the core's turn leads to (R72, R98, R380). -/
theorem coreTurnOf_cases (s : State) :
    (coreTurnOf s = .settles s ∧ (s.resetLine = true ∨ s.runState ≠ .busy)) ∨
    (s.resetLine = false ∧ s.runState = .busy ∧
      ((s.pending = none ∧ coreTurnOf s = .stops .busyWithoutCommand) ∨
       (∃ c e, s.pending = some c ∧ decode c = .error e ∧ coreTurnOf s = .settles (s.raiseError illegalCommand)) ∨
       (∃ c i, s.pending = some c ∧ decode c = .ok i ∧ coreTurnOf s = .performs i s))) := by
  unfold coreTurnOf
  cases hr : s.resetLine
  · simp only [Bool.false_eq_true, if_false, coreMove]
    cases hs : s.runState
    · exact .inl ⟨rfl, by simp⟩
    · cases hp : s.pending with
      | none => exact .inr ⟨trivial, rfl, .inl ⟨rfl, rfl⟩⟩
      | some c =>
        cases hd : decode c with
        | error e => exact .inr ⟨trivial, rfl, .inr (.inl ⟨c, e, rfl, hd, by simp [hd]⟩)⟩
        | ok i => exact .inr ⟨trivial, rfl, .inr (.inr ⟨c, i, rfl, hd, by simp [hd]⟩)⟩
    · exact .inl ⟨rfl, by simp⟩
  · exact .inl ⟨by simp, .inl rfl⟩

/-- The state in which the next move is made: the head of the agenda is taken off. -/
def State.popped (s : State) : State := s.withAgenda s.env.agenda.tail

/-- Every step that answers a next state is one of these. -/
theorem step_cases {s t : State} (h : step s = .next t) :
    t = s.popped ∨
    (∃ off n, s.resetLine = true ∧ s.env.agenda.head? = some (.read off n) ∧ t = s.popped.answerFree) ∨
    (∃ off n, s.resetLine = false ∧ s.env.agenda.head? = some (.read off n) ∧
      t = (s.popped.hostRead off n).2.answer (s.popped.hostRead off n).1) ∨
    (∃ off n d, s.resetLine = false ∧ s.env.agenda.head? = some (.write off n d) ∧ t = s.popped.hostWrite off n d) ∨
    (s.env.agenda.head? = some .assertReset ∧ t = s.popped.assertReset) ∨
    (s.env.agenda.head? = some .releaseReset ∧ t = s.popped.releaseReset) ∨
    (∃ a, s.env.agenda.head? = some (.provider a) ∧ t = s.popped.setProvider a) ∨
    (s.resetLine = false ∧ s.runState = .busy ∧ ∃ c, s.pending = some c ∧
      ((∃ e, decode c = .error e ∧ t = s.popped.raiseError illegalCommand) ∨
       (∃ i, decode c = .ok i ∧ exec i s.popped = .next t))) := by
  have core : ∀ u : State, u = s.popped →
      (match coreTurnOf u with | .settles t => .next t | .performs i t => exec i t | .stops r => .fault r :
        Host.Outcome State Fault Refusal) = .next t →
      t = s.popped ∨ (s.resetLine = false ∧ s.runState = .busy ∧ ∃ c, s.pending = some c ∧
      ((∃ e, decode c = .error e ∧ t = s.popped.raiseError illegalCommand) ∨
       (∃ i, decode c = .ok i ∧ exec i s.popped = .next t))) := by
    rintro u rfl hu
    rcases coreTurnOf_cases s.popped with ⟨hc, -⟩ | ⟨hr, hb, ⟨-, hc⟩ | ⟨c, e, hp, hd, hc⟩ | ⟨c, i, hp, hd, hc⟩⟩
    · rw [hc] at hu; left; simpa [eq_comm] using hu
    · rw [hc] at hu; cases hu
    · rw [hc] at hu
      exact .inr ⟨hr, hb, c, hp, .inl ⟨e, hd, by simpa [eq_comm] using hu⟩⟩
    · rw [hc] at hu
      exact .inr ⟨hr, hb, c, hp, .inr ⟨i, hd, hu⟩⟩
  unfold step nextMove at h
  cases ha : s.env.agenda with
  | nil =>
    have hs : s = s.popped := by
      have : s.env = { s.env with agenda := [] } := by rw [← ha]
      show s = { s with env := { s.env with agenda := s.env.agenda.tail } }
      rw [ha, List.tail_nil, ← this]
    simp only [ha] at h
    rcases core s hs h with h | h
    · exact .inl h
    · exact .inr (.inr (.inr (.inr (.inr (.inr (.inr h))))))
  | cons m rest =>
    have hp : s.withAgenda rest = s.popped := by simp [State.popped, ha]
    simp only [ha, hp] at h
    simp only [List.head?_cons, Option.some.injEq]
    cases m with
    | read off n =>
      cases hr : s.resetLine
      · have hr' : s.popped.resetLine = false := hr
        simp only [playMove, readMove, hr', Bool.false_eq_true, if_false, Host.Outcome.next.injEq] at h
        exact .inr (.inr (.inl ⟨off, n, rfl, rfl, h.symm⟩))
      · have hr' : s.popped.resetLine = true := hr
        simp only [playMove, readMove, hr', if_true, Host.Outcome.next.injEq] at h
        exact .inr (.inl ⟨off, n, rfl, rfl, h.symm⟩)
    | write off n d =>
      cases hr : s.resetLine
      · have hr' : s.popped.resetLine = false := hr
        simp only [playMove, writeMove, hr', Bool.false_eq_true, if_false, Host.Outcome.next.injEq] at h
        exact .inr (.inr (.inr (.inl ⟨off, n, d, rfl, rfl, h.symm⟩)))
      · have hr' : s.popped.resetLine = true := hr
        simp only [playMove, writeMove, hr', if_true, Host.Outcome.next.injEq] at h
        exact .inl h.symm
    | assertReset =>
      simp only [playMove, Host.Outcome.next.injEq] at h
      exact .inr (.inr (.inr (.inr (.inl ⟨rfl, h.symm⟩))))
    | releaseReset =>
      simp only [playMove, Host.Outcome.next.injEq] at h
      exact .inr (.inr (.inr (.inr (.inr (.inl ⟨rfl, h.symm⟩)))))
    | provider a =>
      simp only [playMove, Host.Outcome.next.injEq] at h
      exact .inr (.inr (.inr (.inr (.inr (.inr (.inl ⟨a, rfl, h.symm⟩))))))
    | coreTurn =>
      rcases core s.popped rfl h with h | h
      · exact .inl h
      · exact .inr (.inr (.inr (.inr (.inr (.inr (.inr h))))))

end Sys2Proof.Machine
end

