-- ==== Sys2Proof/Tests/Slice0.lean ====
section
/-! SUPPORT. The model's own tests. Expected results come from the spec's examples and vectors (95_test_vectors.md,
96_test_vectors_ecdsa_host.md; the row is named beside each), never from the model. The last part shows for every obligation
with hypotheses a state that meets them. -/

namespace Sys2Proof.Tests

open Sys2Proof Sys2Proof.Machine Sys2Proof.Spec

set_option Elab.async false

/-! ## Well-formedness: an ill-formed term for each check -/

theorem test_wellFormed_refuses_constant_12 : (Instr.ldc 2 12).wellFormed = false := by decide
theorem test_wellFormed_takes_constant_11 : (Instr.ldc 2 11).wellFormed = true := by decide
theorem test_wellFormed_refuses_equal_destinations : (Instr.sign 2 2 1).wellFormed = false := by decide
theorem test_wellFormed_takes_source_as_destination : (Instr.sign 2 3 2).wellFormed = true := by decide

/-! ## Decoding: the words of the spec's examples, one theorem a family; the first of each in the bits of R94 -/

theorem test_decode_move :
    decode 0b00000001_0101_0000_0000000000000111#32 = .ok (.ldi 5 7) ∧
    decode 0x00000000#32 = .ok .nop ∧ decode 0x02200002#32 = .ok (.ldc 2 2) ∧
    decode 0x03920000#32 = .ok (.mov 9 2) ∧ decode 0x04500000#32 = .ok (.clr 5) ∧
    decode 0x05100000#32 = .ok (.pmov 1 0) ∧ decode 0x06300000#32 = .ok (.pclr 3) := by decide

theorem test_decode_convert :
    decode 0b00010000_0001_0000_000000000000000_1#32 = .ok (.fnew 1 0 .n) ∧
    decode 0x10100000#32 = .ok (.fnew 1 0 .p) ∧ decode 0x11210000#32 = .ok (.fint 2 1) ∧
    decode 0x12100001#32 = .ok (.ired 1 0 .n) ∧ decode 0x13120000#32 = .ok (.icmp 1 2) := by decide

theorem test_decode_field :
    decode 0b00100000_0011_0001_0010_000000000000#32 = .ok (.fadd 3 1 2) ∧
    decode 0x21312000#32 = .ok (.fsub 3 1 2) ∧ decode 0x22312000#32 = .ok (.fmul 3 1 2) ∧
    decode 0x23312000#32 = .ok (.fdiv 3 1 2) ∧ decode 0x24310000#32 = .ok (.finv 3 1) ∧
    decode 0x25312000#32 = .ok (.fpow 3 1 2) ∧ decode 0x26120000#32 = .ok (.feq 1 2) := by decide

theorem test_decode_montgomery :
    decode 0b00110000_0011_0001_0010_000000000000#32 = .ok (.mmul 3 1 2) ∧
    decode 0x31210000#32 = .ok (.mto 2 1) ∧ decode 0x32210000#32 = .ok (.mfrom 2 1) := by decide

theorem test_decode_point :
    decode 0b01000010_0010_0000_0001_000000000000#32 = .ok (.padd 2 0 1) ∧
    decode 0x40012000#32 = .ok (.pnew 0 1 2) ∧ decode 0x41200000#32 = .ok (.pinf 2) ∧
    decode 0x43400000#32 = .ok (.pgetx 4 0) ∧ decode 0x44500000#32 = .ok (.pgety 5 0) ∧
    decode 0x45010000#32 = .ok (.peq 0 1) ∧ decode 0x46200000#32 = .ok (.ptest 2) := by decide

theorem test_decode_scalar :
    decode 0b01010011_0000_0001_000000000000000_1#32 = .ok (.pdecomp 0 1 true) ∧
    decode 0x50110000#32 = .ok (.pmul 1 1 0) ∧ decode 0x51010000#32 = .ok (.pmulg 0 1) ∧
    decode 0x52210000#32 = .ok (.fsqrt 2 1) ∧ decode 0x53010000#32 = .ok (.pdecomp 0 1 false) := by decide

theorem test_decode_ecdsa :
    decode 0b01100101_0001_0010_0011_0011_00000000#32 = .ok (.verify 1 2 3 3) ∧
    decode 0x60000000#32 = .ok (.keyld 0) ∧ decode 0x61300000#32 = .ok (.keypub 3) ∧
    decode 0x62000000#32 = .ok .keyclr ∧ decode 0x63210000#32 = .ok (.nonce 2 1) ∧
    decode 0x64231000#32 = .ok (.sign 2 3 1) := by decide

/-- Every refusal of the decoder: M9, M18 and the words of R97, R98. -/
theorem test_decode_refuses :
    decode 0x07000000#32 = .error .unknownOpcode ∧ decode 0xFF000000#32 = .error .unknownOpcode ∧
    decode 0x00000001#32 = .error .mustBeZero ∧ decode 0x20312001#32 = .error .mustBeZero ∧
    decode 0x05800000#32 = .error .pointField ∧ decode 0x65123B00#32 = .error .pointField ∧
    decode 0x0200000C#32 = .error .constIndex ∧ decode 0x64221000#32 = .error .sameDestinations := by decide

theorem test_encode_verify : encode (.verify 1 2 3 3) = 0x65123300#32 := by decide
theorem test_table_word : decodeTableWord 32 0x10100001 = some (.fnew 1 0 .n) := by decide

/-! ## One step of each command -/

/-- The reset state with some value registers written. -/
def start (l : List (RegIdx × ValReg)) : State := l.foldl (fun s p => s.writeReg p.1 p.2) State.reset

/-- The state after one step that takes the word `w`; the state itself where the step answers none. -/
def after (s : State) (w : Nat) : State :=
  match step (s.withFetchWord 32 w) with
  | .next t => t
  | .fault _ => s
  | .refused _ => s

/-- `(INT, v)`. -/
def int (v : Nat) : ValReg := ⟨.int, BitVec.ofNat 256 v⟩
/-- `(FP, v)`. -/
def fp (v : Nat) : ValReg := ⟨.fp, BitVec.ofNat 256 v⟩
/-- `(FN, v)`. -/
def fn (v : Nat) : ValReg := ⟨.fn, BitVec.ofNat 256 v⟩
/-- `Affine(x, y)` as a register holds it. -/
def aff (x y : Nat) : PointReg := ⟨.affine, BitVec.ofNat 256 x, BitVec.ofNat 256 y⟩
/-- The register that holds `G`. -/
def ptG : PointReg := aff Config.GX Config.GY
/-- The register that holds `-G` (95_test_vectors.md section 2). -/
def ptMinusG : PointReg := aff Config.GX 0xB7C52588D95C3B9AA25B0403F1EEF75702E84BB7597AABE663B82F6F04EF2777
/-- The register that holds `2G` (R205's example). -/
def pt2G : PointReg :=
  aff 0xC6047F9441ED7D6D3045406E95C07CD85C778E4B8CEF3CA7ABAC09B95C709EE5
    0x1AE168FEA63DC339A3C58419466CEAEEF7F632653266D0E1236431A950CFE52A
/-- The register that holds `3G` (R243's example). -/
def pt3G : PointReg :=
  aff 0xF9308A019258C31049344F85F89D5229B531C845836F99B08601F113BCE036F9
    0x388F7B0F632DE8140FE337E62A37F3566500A99934C2231B6CB9FD7584B8E672

-- M1, M3, M5, M10, M13
theorem test_nop : (after State.reset 0x00000000).done = true ∧ (after State.reset 0x00000000).seq = 1 := by
  decide +kernel
theorem test_ldi : (after State.reset 0x0100FFFF).reg 0 = int 65535 := by decide +kernel
theorem test_ldc : (after State.reset 0x02200002).reg 2 = int Config.GX := by decide +kernel
theorem test_ldc_R1N : (after State.reset 0x0200000B).reg 0 = int (2 ^ 256 - Config.N) := by decide +kernel
theorem test_mov : (after (start [(2, fp 5)]) 0x03920000).reg 9 = fp 5 := by decide +kernel
theorem test_mov_empty : (after State.reset 0x03100000).errWord = 0x209#32 := by decide +kernel
theorem test_clr : (after (start [(5, fn 77)]) 0x04500000).reg 5 = ⟨.empty, 0⟩ := by decide +kernel
-- M15, M19
theorem test_pmov : (after (State.reset.writePoint 0 ptG) 0x05100000).point 1 = ptG := by decide +kernel
theorem test_pclr : (after (State.reset.writePoint 3 ptG) 0x06300000).point 3 = ⟨.empty, 0, 0⟩ := by decide +kernel
-- M22, M23, M31, M35, M38
theorem test_fnew : (after (start [(0, int (Config.P - 1))]) 0x10100000).reg 1 = fp (Config.P - 1) := by decide +kernel
theorem test_fnew_range : (after (start [(0, int Config.P)]) 0x10100000).errWord = 0x201#32 := by decide +kernel
theorem test_fint : (after (start [(1, fn (Config.N - 1))]) 0x11110000).reg 1 = int (Config.N - 1) := by decide +kernel
theorem test_ired : (after (start [(0, int (2 ^ 256 - 1))]) 0x12100000).reg 1 = fp 0x1000003D0 := by decide +kernel
theorem test_ired_N : (after (start [(0, int Config.N)]) 0x12100001).reg 1 = fn 0 := by decide +kernel
-- M40, M43
theorem test_icmp : (after (start [(0, int 3), (1, int 5)]) 0x13010000).flags = ⟨false, true, false, false, false⟩ := by
  decide +kernel
theorem test_icmp_unsigned : (after (start [(0, int (2 ^ 256 - 1)), (1, int 0)]) 0x13010000).flags.lt = false := by
  decide +kernel
-- F1, F3; R142, R143, R144, R145 examples
theorem test_fadd : (after (start [(1, fp (Config.P - 1)), (2, fp 2)]) 0x20312000).reg 3 = fp 1 := by decide +kernel
theorem test_fadd_N : (after (start [(1, fn (Config.N - 1)), (2, fn (Config.N - 1))]) 0x20312000).reg 3 =
    fn (Config.N - 2) := by decide +kernel
theorem test_fsub : (after (start [(1, fp 1), (2, fp 2)]) 0x21312000).reg 3 = fp (Config.P - 1) := by decide +kernel
theorem test_fmul : (after (start [(1, fp (2 ^ 255)), (2, fp 2)]) 0x22312000).reg 3 = fp 0x1000003D1 := by decide +kernel
theorem test_fdiv : (after (start [(1, fp 1), (2, fp 2)]) 0x23312000).reg 3 =
    fp 0x7FFFFFFFFFFFFFFFFFFFFFFFFFFFFFFFFFFFFFFFFFFFFFFFFFFFFFFF7FFFFE18 := by decide +kernel
theorem test_fdiv_zero : (after (start [(1, fp 7), (2, fp 0)]) 0x23312000).reg 3 = fp 0 ∧
    (after (start [(1, fp 7), (2, fp 0)]) 0x23312000).flags.divz = true := by decide +kernel
theorem test_finv : (after (start [(1, fn 2)]) 0x24310000).reg 3 =
    fn 0x7FFFFFFFFFFFFFFFFFFFFFFFFFFFFFFF5D576E7357A4501DDFE92F46681B20A1 := by decide +kernel
-- R146's example and corner case (3)
theorem test_fpow : (after (start [(1, fp 2), (2, int 256)]) 0x25312000).reg 3 = fp 0x1000003D1 := by decide +kernel
theorem test_fpow_zero : (after (start [(1, fp 0), (2, int (Config.P - 1))]) 0x25312000).reg 3 = fp 1 := by decide +kernel
-- R147's example and corner cases
theorem test_feq : (after (start [(1, fp 5), (2, fp 5)]) 0x26120000).flags.eq = true := by decide +kernel
theorem test_feq_empty : (after (start [(1, fp 0)]) 0x26120000).flags.eq = false ∧
    (after (start [(1, fp 0)]) 0x26120000).err = none := by decide +kernel
-- R174, R175, R176 examples
theorem test_mmul : (after (start [(1, fp 0x2000007A2), (2, fp 0x300000B73)]) 0x30312000).reg 3 = fp 0x6000016E6 := by
  decide +kernel
theorem test_mmul_one : (after (start [(1, fp 1), (2, fp 1)]) 0x30312000).reg 3 =
    fp 0xC9BD1905155383999C46C2C295F2B761BCB223FEDC24A059D838091D0868192A := by decide +kernel
theorem test_mto : (after (start [(1, fn 2)]) 0x31210000).reg 2 = fn 0x28AA24632A16EBF88805B42E65F937D7E := by
  decide +kernel
theorem test_mfrom : (after (start [(1, fp 0x1000003D1)]) 0x32210000).reg 2 = fp 1 := by decide +kernel
-- R203's example
theorem test_pnew : (after (start [(1, fp Config.GX), (2, fp Config.GY)]) 0x40012000).point 0 = ptG := by decide +kernel
theorem test_pnew_off_curve : (after (start [(1, fp Config.GX), (2, fp (Config.GY + 1))]) 0x40012000).err =
    some ⟨.notOnCurve, 0⟩ := by decide +kernel
theorem test_pinf : (after State.reset 0x41200000).point 2 = ⟨.identity, 0, 0⟩ := by decide +kernel
-- R205's example and corner case (c)
theorem test_padd : (after ((State.reset.writePoint 0 ptG).writePoint 1 ptG) 0x42201000).point 2 = pt2G := by
  decide +kernel
theorem test_padd_opposite : (after ((State.reset.writePoint 0 ptG).writePoint 1 ptMinusG) 0x42201000).point 2 =
    ⟨.identity, 0, 0⟩ := by decide +kernel
-- R206, R207, R208, R209 examples
theorem test_pgetx : (after (State.reset.writePoint 0 ptG) 0x43400000).reg 4 = fp Config.GX := by decide +kernel
theorem test_pgetx_identity : (after (State.reset.writePoint 0 ⟨.identity, 0, 0⟩) 0x43400000).err =
    some ⟨.identityCoordinate, 2⟩ := by decide +kernel
theorem test_pgety : (after (State.reset.writePoint 0 ptG) 0x44500000).reg 5 = fp Config.GY := by decide +kernel
theorem test_peq : (after ((State.reset.writePoint 0 ⟨.identity, 0, 0⟩).writePoint 1 ⟨.identity, 0, 0⟩)
    0x45010000).flags.eq = true := by decide +kernel
theorem test_ptest : (after (State.reset.writePoint 2 ⟨.identity, 0, 0⟩) 0x46200000).flags.inf = true := by decide +kernel
-- R243, R244 examples
theorem test_pmul : (after ((start [(1, int 3)]).writePoint 0 ptG) 0x50110000).point 1 = pt3G := by decide +kernel
theorem test_pmul_order : (after ((start [(1, int Config.N)]).writePoint 0 ptG) 0x50110000).point 1 =
    ⟨.identity, 0, 0⟩ := by decide +kernel
theorem test_pmulg : (after (start [(1, int 2)]) 0x51010000).point 0 = pt2G := by decide +kernel
-- R245's examples
theorem test_fsqrt : (after (start [(1, fp 4)]) 0x52210000).reg 2 = fp 2 := by decide +kernel
theorem test_fsqrt_nonsquare : (after (start [(1, fp 3)]) 0x52210000).reg 2 =
    fp 0x0A2D2BA93507F1DF233770C2A797962CC61F6D15DA14ECD47D8D27AE1CD5F852 := by decide +kernel
-- R246's examples
theorem test_pdecomp : (after (start [(1, fp Config.GX)]) 0x53010001).point 0 = ptMinusG := by decide +kernel
theorem test_pdecomp_no_root : (after (start [(1, fp 5)]) 0x53010000).err = some ⟨.notOnCurve, 0⟩ := by decide +kernel
-- R272's example
theorem test_keyld : (after (start [(0, int 12345)]) 0x60000000).key =
    ⟨true, 12345, aff 0xF01D6B9018AB421DD410404CB869072065522BF85734008F105CF385A023A80F
      0x0EBA29D0F0C5408ED681984DC525982ABEFCCD9F7FF01DD26DA4999CF3F6A295⟩ := by decide +kernel
theorem test_keyld_range : (after (start [(0, int Config.N)]) 0x60000000).err = some ⟨.rangeError, 1⟩ := by decide +kernel

/-- A key slot that holds the secret 1, whose public point is `G`. -/
def keyOne : KeySlot := ⟨true, 1, ptG⟩

theorem test_keypub : (after (State.reset.writeKey keyOne) 0x61300000).point 3 = ptG := by decide +kernel
theorem test_keypub_no_key : (after State.reset 0x61300000).err = some ⟨.noKey, 0⟩ := by decide +kernel
theorem test_keyclr : (after (State.reset.writeKey keyOne) 0x62000000).key = ⟨false, 0, ⟨.empty, 0, 0⟩⟩ := by
  decide +kernel

/-! ### NONCE, SIGN and VERIFY, with the toy functions of 96_test_vectors_ecdsa_host.md section 3 -/

/-- `T` and `T0` on the requests of key 5 and digest 9; `bad` is the first candidate they give. -/
def toy (bad : Val) : List HmacEntry :=
  let tail := be32 5 ++ be32 9
  [⟨⟨0, be32 ones ++ 0x00#8 :: tail⟩, 1⟩, ⟨⟨1, be32 ones⟩, 1⟩, ⟨⟨1, be32 1 ++ 0x01#8 :: tail⟩, 2⟩, ⟨⟨2, be32 1⟩, bad⟩,
    ⟨⟨2, be32 bad⟩, bad⟩, ⟨⟨2, be32 bad ++ [0x00#8]⟩, 3⟩, ⟨⟨3, be32 bad⟩, 3⟩, ⟨⟨3, be32 3⟩, 3⟩]

/-- `5G` (95_test_vectors.md section 2). -/
def pt5G : PointReg :=
  aff 0x2F8BDE4D1A07209355B4A7250A5C5128E88B84BDDC619AB7CBA8D569B240EFE4
    0xD8AC222636E5E3D6D4DBA9DDA6C9C426F788271BAB0D6840DCA87D3AA6AC62D6

/-- A machine whose HMAC port gives the values of `table`, with the key 5 and `r1 = (INT, 9)`. -/
def signer (table : List HmacEntry) : State :=
  { start [(1, int 9)] with key := ⟨true, 5, pt5G⟩, env := { Env.quiet with hmac := ⟨table, true, []⟩ } }

/-- The state after `n` turns of the core on the command `i`; the state itself where they answer none. -/
def afterTurns (i : Instr) (n : Nat) (s : State) : State :=
  match turns i n s with
  | .next t => t
  | .fault _ => s
  | .refused _ => s

-- E52, E53, E54
theorem test_nonce_busy : (afterTurns (.nonce 2 1) 1 ((signer (toy (-1))).accept 0x63210000#32)).runState = .busy := by
  decide +kernel
theorem test_nonce : (afterTurns (.nonce 2 1) 2 ((signer (toy (-1))).accept 0x63210000#32)).reg 2 = int 3 ∧
    (afterTurns (.nonce 2 1) 2 ((signer (toy (-1))).accept 0x63210000#32)).env.hmac.answered.length = 8 := by
  decide +kernel
theorem test_nonce_zero : (afterTurns (.nonce 2 1) 2 ((signer (toy 0)).accept 0x63210000#32)).reg 2 = int 3 := by
  decide +kernel
theorem test_sign :
    (afterTurns (.sign 2 3 1) 2 ((signer (toy (-1))).accept 0x64231000#32)).reg 2 = int pt3G.x.toNat ∧
    (afterTurns (.sign 2 3 1) 2 ((signer (toy (-1))).accept 0x64231000#32)).reg 3 =
      int 0x49FB90AD493E9A707A01D9DF4906339C8A69D1EAF1592A8134EABE65252D59F6 := by decide +kernel
theorem test_sign_same_destinations : (after (signer []) 0x64221000).err = some ⟨.illegalCommand, 0⟩ := by
  decide +kernel
-- R290 by hand (E36: the identity is accepted as Q): with z = s = 1, r = GX and Q the identity, total is G
theorem test_verify :
    (after ((start [(1, int 1), (2, int Config.GX), (3, int 1)]).writePoint 3 ⟨.identity, 0, 0⟩)
      0x65123300).flags.valid = true := by decide +kernel
-- E50
theorem test_verify_empty : (after (start [(1, int 1), (2, int 1), (3, int 1)]) 0x65123300).errWord = 0x409#32 := by
  decide +kernel

/-! ## The host window (H1 to H30) -/

theorem test_window_reset : State.reset.hostRead 0x000 4 = (0x4D4D4D07#32, State.reset) ∧
    State.reset.hostRead 0x008 4 = (0, State.reset) ∧ State.reset.hostRead 0x018 4 = (0, State.reset) ∧
    State.reset.hostRead 0x014 4 = (0, State.reset) := by decide +kernel
theorem test_window_register :
    (State.reset.hostWrite 0x4DC 4 5).reg 3 = int 5 ∧ ((State.reset.hostWrite 0x4DC 4 5).hostRead 0x4E0 4).1 = 1 ∧
    ((State.reset.hostWrite 0x4DC 4 5).hostWrite 0x4C0 4 0x80000000#32).reg 3 = int (2 ^ 255 + 5) ∧
    ((start [(4, fp 7)]).hostWrite 0x51C 4 7).reg 4 = int 7 ∧
    ((start [(4, fp 7)]).hostWrite 0x520 4 3).reg 4 = fp 7 ∧
    ((start [(4, fp 7)]).hostWrite 0x520 4 3).faultWord = 4 := by decide +kernel
theorem test_window_point : ((State.reset.writePoint 1 ptG).hostRead 0x880 4).1 = 0x79BE667E#32 ∧
    ((State.reset.writePoint 1 ptG).hostRead 0x8BC 4).1 = 0xFB10D4B8#32 ∧
    ((State.reset.writePoint 1 ptG).hostRead 0x8C0 4).1 = 2 ∧
    ((State.reset.writePoint 1 ptG).hostWrite 0x880 4 1).point 1 = ptG ∧
    ((State.reset.writePoint 1 ptG).hostWrite 0x880 4 1).faultWord = 4 := by decide +kernel
theorem test_window_unmapped :
    [(0x028, 4), (0x424, 4), (0x844, 4), (0xC00, 4), (0x002, 4), (0x000, 1)].all
      (fun a => decide (State.reset.hostRead a.1 a.2 = (0, busErr State.reset))) = true ∧
    (State.reset.hostWrite 0x000 4 1).faultWord = 4 := by decide +kernel
theorem test_window_control : (State.reset.hostWrite 0x004 4 0xFFFFFFFF#32).ctrlWord = 3 ∧
    (({ State.reset with flags := ⟨false, false, false, false, true⟩ } : State).hostWrite 0x014 4 4).flagsWord = 0 ∧
    (({ State.reset with seq := 0xFFFFFFFF#32 } : State).hostWrite 0x018 4 0).seq = 0 ∧
    State.reset.hostWrite 0x014 4 2 = State.reset := by decide +kernel

/-- `r1 = (FP, 5)` and `MOV r2, r1` accepted. -/
def moving : State := (start [(1, fp 5)]).hostWrite 0x018 4 0x03210000#32

theorem test_window_busy : (moving.hostRead 0x008 4).1 = 1 ∧ (moving.hostRead 0x01C 4).1 = 1 ∧
    moving.hostRead 0x45C 4 = (0, accViolated moving) ∧ moving.hostWrite 0x45C 4 9 = accViolated moving ∧
    (moving.hostWrite 0x018 4 0).faultWord = 1 ∧ (moving.hostWrite 0x018 4 0).seq = 1 ∧
    moving.hostRead 0x424 4 = (0, accViolated moving) := by decide +kernel

/-- The state after one core turn. -/
def turn (s : State) : State :=
  match step s with
  | .next t => t
  | .fault _ => s
  | .refused _ => s

theorem test_window_performed : ((turn moving).hostRead 0x008 4).1 = 4 ∧ (turn moving).reg 2 = fp 5 ∧
    ((turn moving).hostRead 0x024 4).1 = 0x03210000#32 := by decide +kernel
theorem test_irq_done : (after (State.reset.hostWrite 0x004 4 1) 0).irq = true ∧
    ((after (State.reset.hostWrite 0x004 4 1) 0).hostWrite 0x014 4 1).irq = false := by decide +kernel

/-- IE_ERR set and `MOV r1, r0` of an empty source performed. -/
def failed : State := after (State.reset.hostWrite 0x004 4 2) 0x03100000

theorem test_irq_error : failed.statusWord = 2 ∧ failed.errWord = 0x209#32 ∧ failed.irq = true ∧
    (failed.hostWrite 0x014 4 1).irq = true ∧ (failed.hostWrite 0x014 4 2).irq = false ∧
    (failed.hostWrite 0x014 4 2).statusWord = 0 ∧ (failed.hostWrite 0x014 4 2).errWord = 0 := by decide +kernel
theorem test_error_clears_done : (after (after State.reset 0) 0x03100000).statusWord = 2 := by decide +kernel

/-! ## Witnesses: for every obligation with hypotheses, states and operands that meet them, clause by clause -/

/-- The state `exec i s` answers. -/
def result (i : Instr) (s : State) : State :=
  match exec i s with
  | .next t => t
  | .fault _ => s
  | .refused _ => s

/-- Whether an outcome is a next state. -/
def isNext : Host.Outcome State Fault Refusal → Bool
  | .next _ => true
  | .fault _ => false
  | .refused _ => false

theorem result_spec {i : Instr} {s : State} (h : isNext (exec i s) = true) : exec i s = .next (result i s) := by
  unfold result
  cases hx : exec i s <;> simp_all [isNext]

theorem turn_spec {s : State} (h : isNext (step s) = true) : step s = .next (turn s) := by
  unfold turn
  cases hx : step s <;> simp_all [isNext]

/-- A state with every kind of register: an integer, elements of both fields, an empty `r0`, points of both kinds, an empty
`p0`. -/
def mixed : State :=
  ((start [(1, int 7), (2, fp (Config.P - 1)), (3, fp 2), (4, fn (Config.N - 1)), (5, fn 2), (6, int (2 ^ 256 - 1)),
    (7, fp Config.GX), (8, fp Config.GY)]).writePoint 1 ptG).writePoint 2 ⟨.identity, 0, 0⟩

/-- `mixed` with the key 1 loaded. -/
def keyed : State := mixed.writeKey keyOne

theorem witness_DecodeOfEncode : (Instr.verify 15 15 15 7).wellFormed = true ∧ (Instr.ldc 15 11).wellFormed = true ∧
    (Instr.sign 15 14 15).wellFormed = true ∧ Instr.nop.wellFormed = true := by decide

theorem witness_EncodeOfDecode : decode 0x65FFF700#32 = .ok (.verify 15 15 15 7) ∧
    decode 0x02F0000B#32 = .ok (.ldc 15 11) ∧ decode 0x53700001#32 = .ok (.pdecomp 7 0 true) := by decide

theorem witness_MoveCommands : nonempty mixed 2 1 none = none ∧ nonempty mixed 2 0 none = some ⟨.emptyRegister, 2⟩ ∧
    nonemptyPt mixed 2 1 none = none ∧ nonemptyPt mixed 2 0 none = some ⟨.emptyRegister, 2⟩ := by decide +kernel

theorem witness_LoadConstant : (11#8).toNat ≤ 11 ∧ 12 ≤ (12#8).toNat := by decide

/-- The checks of FNEW at the largest element, at the modulus, and on operands of other kinds. -/
theorem witness_Conversions :
    (nonempty mixed 2 1 <| integer mixed 2 1 <| require (num mixed 1 < modulusOf .fn) ⟨.rangeError, 2⟩ none) = none ∧
    (nonempty mixed 2 6 <| integer mixed 2 6 <| require (num mixed 6 < modulusOf .fp) ⟨.rangeError, 2⟩ none) =
      some ⟨.rangeError, 2⟩ ∧
    (nonempty mixed 2 2 <| integer mixed 2 2 none) = some ⟨.operandType, 2⟩ ∧
    (nonempty mixed 2 0 <| integer mixed 2 0 none) = some ⟨.emptyRegister, 2⟩ ∧
    (nonempty mixed 2 4 <| element mixed 2 4 none) = none ∧
    (nonempty mixed 2 1 <| element mixed 2 1 none) = some ⟨.operandType, 2⟩ := by decide +kernel

theorem witness_RegisterComparisons :
    (nonempty mixed 1 1 <| nonempty mixed 2 6 <| integer mixed 1 1 <| integer mixed 2 6 none) = none ∧
    (nonempty mixed 1 0 <| nonempty mixed 2 6 <| integer mixed 1 0 <| integer mixed 2 6 none) =
      some ⟨.emptyRegister, 1⟩ ∧
    (nonempty mixed 1 1 <| nonempty mixed 2 2 <| integer mixed 1 1 <| integer mixed 2 2 none) =
      some ⟨.operandType, 2⟩ ∧
    (nonempty mixed 1 2 <| element mixed 1 2 none) = none ∧
    (nonempty mixed 1 1 <| element mixed 1 1 none) = some ⟨.operandType, 1⟩ := by decide +kernel

/-- The checks of the two-source commands: both fields, then each error. -/
theorem witness_FieldArithmetic : pairChecks mixed 2 3 = none ∧ pairChecks mixed 4 5 = none ∧ pairChecks mixed 2 2 = none ∧
    pairChecks mixed 0 3 = some ⟨.emptyRegister, 2⟩ ∧ pairChecks mixed 3 0 = some ⟨.emptyRegister, 3⟩ ∧
    pairChecks mixed 1 3 = some ⟨.operandType, 2⟩ ∧ pairChecks mixed 3 1 = some ⟨.operandType, 3⟩ ∧
    pairChecks mixed 3 4 = some ⟨.domainMismatch, 3⟩ := by decide +kernel

/-- A zero divisor and another one. -/
theorem witness_FieldDivision : pairChecks (mixed.writeReg 9 (fp 0)) 2 9 = none ∧ pairChecks mixed 2 3 = none ∧
    (nonempty (mixed.writeReg 9 (fn 0)) 2 9 <| element (mixed.writeReg 9 (fn 0)) 2 9 none) = none ∧
    (nonempty mixed 2 1 <| element mixed 2 1 none) = some ⟨.operandType, 2⟩ := by decide +kernel

theorem witness_FieldPower :
    (nonempty mixed 2 2 <| nonempty mixed 3 6 <| element mixed 2 2 <| integer mixed 3 6 none) = none ∧
    (nonempty mixed 2 2 <| nonempty mixed 3 3 <| element mixed 2 2 <| integer mixed 3 3 none) =
      some ⟨.operandType, 3⟩ := by decide +kernel

theorem witness_MontgomeryCommands : pairChecks mixed 4 4 = none ∧ pairChecks mixed 2 4 = some ⟨.domainMismatch, 3⟩ ∧
    (nonempty mixed 2 4 <| element mixed 2 4 none) = none ∧
    (nonempty mixed 2 0 <| element mixed 2 0 none) = some ⟨.emptyRegister, 2⟩ := by decide +kernel

/-- `G`; a point off the curve; elements of the field of `N`. -/
theorem witness_PointConstruction :
    (nonempty mixed 2 7 <| nonempty mixed 3 8 <| element mixed 2 7 <| element mixed 3 8 <| inP mixed 2 7 <| inP mixed 3 8 <|
      require (OnCurve (num mixed 7) (num mixed 8)) ⟨.notOnCurve, 0⟩ none) = none ∧
    (nonempty mixed 2 7 <| nonempty mixed 3 7 <| element mixed 2 7 <| element mixed 3 7 <| inP mixed 2 7 <| inP mixed 3 7 <|
      require (OnCurve (num mixed 7) (num mixed 7)) ⟨.notOnCurve, 0⟩ none) = some ⟨.notOnCurve, 0⟩ ∧
    (nonempty mixed 2 7 <| nonempty mixed 3 4 <| element mixed 2 7 <| element mixed 3 4 <| inP mixed 2 7 <| inP mixed 3 4 <|
      require (OnCurve (num mixed 7) (num mixed 4)) ⟨.notOnCurve, 0⟩ none) = some ⟨.domainMismatch, 3⟩ := by
  decide +kernel

theorem witness_PointAddition : (nonemptyPt mixed 2 1 <| nonemptyPt mixed 3 2 none) = none ∧
    (nonemptyPt mixed 2 0 <| nonemptyPt mixed 3 2 none) = some ⟨.emptyRegister, 2⟩ ∧
    (nonemptyPt mixed 2 1 <| nonemptyPt mixed 3 0 none) = some ⟨.emptyRegister, 3⟩ := by decide +kernel

theorem witness_PointReads :
    (nonemptyPt mixed 2 1 <| require ((mixed.point 1).ptag = .affine) ⟨.identityCoordinate, 2⟩ none) = none ∧
    (nonemptyPt mixed 2 2 <| require ((mixed.point 2).ptag = .affine) ⟨.identityCoordinate, 2⟩ none) =
      some ⟨.identityCoordinate, 2⟩ ∧
    (nonemptyPt mixed 1 1 <| nonemptyPt mixed 2 2 none) = none ∧ nonemptyPt mixed 1 2 none = none ∧
    nonemptyPt mixed 1 0 none = some ⟨.emptyRegister, 1⟩ := by decide +kernel

theorem witness_ScalarLoop : ∃ coef : Nat, coef ≠ 0 := ⟨1, by decide⟩

theorem witness_ScalarMultiplication :
    (nonempty mixed 2 6 <| nonemptyPt mixed 3 2 <| integer mixed 2 6 none) = none ∧
    (nonempty mixed 2 6 <| nonemptyPt mixed 3 0 <| integer mixed 2 6 none) = some ⟨.emptyRegister, 3⟩ ∧
    (nonempty mixed 2 2 <| integer mixed 2 2 none) = some ⟨.operandType, 2⟩ := by decide +kernel

/-- 3 is no square: its power by Euler's criterion is -1 (R245's second example). -/
theorem three_is_no_square : ¬ ∃ u : Nat, u * u % Config.P = 3 := by
  rintro ⟨u, hu⟩
  have hp := Fact.mk Config.prime_P
  have h1 : (u : ZMod Config.P) ^ 2 = 3 := by
    have := congrArg (Nat.cast (R := ZMod Config.P)) hu
    rw [cast_mod] at this
    push_cast at this
    rw [pow_two]; exact this
  have h3 : (3 : ZMod Config.P) ≠ 0 := by
    intro h
    have := residue_inj (m := Config.P) (a := 3) (b := 0) (by decide) (by decide) (by exact_mod_cast h)
    exact absurd this (by decide)
  have hu0 : (u : ZMod Config.P) ≠ 0 := by
    intro h; rw [h] at h1; exact h3 (by rw [← h1]; ring)
  have h2 : (u : ZMod Config.P) ^ (Config.P - 1) = 1 := ZMod.pow_card_sub_one_eq_one hu0
  have he : Config.P - 1 = 2 * ((Config.P - 1) / 2) := by decide
  rw [he, pow_mul, h1] at h2
  have h4 : ((powMod Config.P 3 ((Config.P - 1) / 2) : Nat) : ZMod Config.P) = 1 := by
    rw [cast_powMod Config.P_pos (by decide)]; exact_mod_cast h2
  have h5 := residue_inj (m := Config.P) (powMod_lt Config.P_pos _ _) (by decide)
    (h4.trans (Nat.cast_one (R := ZMod Config.P)).symm)
  exact absurd h5 (by decide +kernel)

/-- A square, 3, 0, and the checks. -/
theorem witness_SquareRoot :
    (4 < Config.P ∧ ∃ u, u * u % Config.P = 4) ∧ (0 < Config.P ∧ ∃ u, u * u % Config.P = 0) ∧
    (3 < Config.P ∧ ¬ ∃ u, u * u % Config.P = 3) ∧
    (nonempty mixed 2 2 <| element mixed 2 2 <| inP mixed 2 2 none) = none ∧
    (nonempty mixed 2 4 <| element mixed 2 4 <| inP mixed 2 4 none) = some ⟨.domainMismatch, 2⟩ ∧
    (nonempty mixed 2 1 <| element mixed 2 1 <| inP mixed 2 1 none) = some ⟨.operandType, 2⟩ :=
  ⟨⟨by decide, 2, by decide⟩, ⟨by decide, 0, by decide⟩, ⟨by decide, three_is_no_square⟩, by decide +kernel,
    by decide +kernel, by decide +kernel⟩

/-- The checks of PDECOMP after the tag checks, on the root `beta` that R246 names. -/
def rootChecks (x beta par : Nat) : Option ErrorRecord :=
  require (beta % 2 = par ∨ beta ≠ 0) ⟨.rangeError, 2⟩ <|
    require ((if beta % 2 = par then beta else Config.P - beta) * (if beta % 2 = par then beta else Config.P - beta) %
      Config.P = (x * x * x + Config.curveA * x + Config.curveB) % Config.P) ⟨.notOnCurve, 0⟩ none

/-- The root `beta` of R246 for the abscissa `x`. -/
def beta (x : Nat) : Nat :=
  ((x * x * x + Config.curveA * x + Config.curveB) % Config.P) ^ ((Config.P + 1) / 4) % Config.P

theorem beta_eq (x : Nat) : beta x =
    powMod Config.P ((x * x * x + Config.curveA * x + Config.curveB) % Config.P) ((Config.P + 1) / 4) :=
  (powMod_eq Config.P_pos (by decide)).symm

/-- `GX` with either parity passes; 5 has no point (R246's examples); an element of the field of `N` is refused. -/
theorem witness_PointRecovery :
    rootChecks Config.GX (beta Config.GX) 0 = none ∧ rootChecks Config.GX (beta Config.GX) 1 = none ∧
    rootChecks 5 (beta 5) 0 = some ⟨.notOnCurve, 0⟩ ∧
    (nonempty mixed 2 7 <| element mixed 2 7 <| inP mixed 2 7 none) = none ∧ num mixed 7 = Config.GX ∧
    (nonempty mixed 2 4 <| element mixed 2 4 <| inP mixed 2 4 none) = some ⟨.domainMismatch, 2⟩ := by
  rw [beta_eq, beta_eq]
  decide +kernel

/-- The ends of the range of keys, and what lies outside it; a slot with and without a key. -/
theorem witness_KeySlotCommands :
    (require (1 ≤ num (start [(0, int 1)]) 0 ∧ num (start [(0, int 1)]) 0 < Config.N) ⟨.rangeError, 1⟩ none) = none ∧
    (nonempty (start [(0, int (Config.N - 1))]) 1 0 <| integer (start [(0, int (Config.N - 1))]) 1 0 <|
      require (1 ≤ num (start [(0, int (Config.N - 1))]) 0 ∧ num (start [(0, int (Config.N - 1))]) 0 < Config.N)
        ⟨.rangeError, 1⟩ none) = none ∧
    (require (1 ≤ num (start [(0, int 0)]) 0 ∧ num (start [(0, int 0)]) 0 < Config.N) ⟨.rangeError, 1⟩ none) =
      some ⟨.rangeError, 1⟩ ∧
    (require (1 ≤ num (start [(0, int Config.N)]) 0 ∧ num (start [(0, int Config.N)]) 0 < Config.N)
      ⟨.rangeError, 1⟩ none) = some ⟨.rangeError, 1⟩ ∧
    (require (keyed.key.valid = true) ⟨.noKey, 0⟩ none) = none ∧
    (require (mixed.key.valid = true) ⟨.noKey, 0⟩ none) = some ⟨.noKey, 0⟩ := by decide +kernel

/-- The command `c` accepted in `s`. -/
def busy (s : State) (c : Word) : State := s.accept c

/-- A port whose first candidate for the key 5 and the digest 9 is `cand`. -/
def firstCandidate (cand : Val) : List HmacEntry := (toy 4).take 4 ++ [⟨⟨2, be32 4⟩, cand⟩]

/-- The first candidate at both ends of the accepted range, and just outside it; a silent provider; each error. -/
theorem witness_NonceCommand :
    nonceChecks (signer []) 1 = none ∧ (signer []).env.hmac.answering = true ∧ (signer []).work.ratcheting = false ∧
    Accepted (candidate (signer (firstCandidate 1)).hmac256 5 9 0).2 ∧
    Accepted (candidate (signer (firstCandidate (BitVec.ofNat 256 (Config.N - 1)))).hmac256 5 9 0).2 ∧
    ¬ Accepted (candidate (signer (firstCandidate 0)).hmac256 5 9 0).2 ∧
    ¬ Accepted (candidate (signer (firstCandidate (BitVec.ofNat 256 Config.N))).hmac256 5 9 0).2 ∧
    (nonceChecks ((signer []).setProvider false) 1 = none ∧ ((signer []).setProvider false).env.hmac.answering = false) ∧
    nonceChecks (signer []) 2 = some ⟨.emptyRegister, 2⟩ ∧ nonceChecks mixed 1 = some ⟨.noKey, 0⟩ ∧
    nonceChecks keyed 2 = some ⟨.operandType, 2⟩ := by
  unfold Accepted
  decide +kernel

/-- No refusal, and one (E52); a refused first candidate, 0. -/
theorem witness_NonceLoop :
    (signer []).work = Work.zero ∧ ¬ Accepted (candidate (signer (toy 0)).hmac256 5 9 0).2 ∧ (signer (toy (-1))).reg 1 = int 9 ∧ (signer (toy (-1))).key.secret = 5 ∧
    (∀ i, i < 1 → ¬ Accepted (candidate (signer (toy (-1))).hmac256 5 9 i).2) ∧
    Accepted (candidate (signer (toy (-1))).hmac256 5 9 1).2 ∧
    Accepted (candidate (signer (firstCandidate 3)).hmac256 5 9 0).2 := by
  unfold Accepted
  decide +kernel

theorem witness_NonceOfReducedDigest :
    (1 ≤ (1#256).toNat ∧ (BitVec.ofNat 256 (Config.N + 1)).toNat = (1#256).toNat + Config.N) ∧
    (1 ≤ (BitVec.ofNat 256 (2 ^ 256 - 1 - Config.N)).toNat ∧
      (BitVec.ofNat 256 (2 ^ 256 - 1)).toNat = (BitVec.ofNat 256 (2 ^ 256 - 1 - Config.N)).toNat + Config.N) := by decide

/-- The digest 9, and a turn of NONCE on it that goes from BUSY to IDLE. -/
theorem witness_NonceOfReducedDigest_turn :
    (1 ≤ (9#256).toNat ∧ (BitVec.ofNat 256 (Config.N + 9)).toNat = (9#256).toNat + Config.N) ∧
    (busy (signer (firstCandidate 3)) 0x63210000#32).reg 1 = ⟨.int, 9⟩ ∧
    (busy (signer (firstCandidate 3)) 0x63210000#32).runState = .busy ∧
    isNext (exec (.nonce 2 1) (busy (signer (firstCandidate 3)) 0x63210000#32)) = true ∧
    (result (.nonce 2 1) (busy (signer (firstCandidate 3)) 0x63210000#32)).runState = .idle := by decide +kernel

/-- Each clause; refused candidates just outside the accepted range, and one refusal before an accepted candidate (E54). -/
theorem witness_SignCommand : (2 : RegIdx) = 2 ∧ (2 : RegIdx) ≠ 3 ∧ signChecks (signer []) 1 = none ∧
    (signer []).work = Work.zero ∧ (signer []).env.hmac.answering = true ∧
    (signChecks ((signer []).setProvider false) 1 = none ∧ ((signer []).setProvider false).env.hmac.answering = false) ∧
    ¬ Accepted (candidate (signer (firstCandidate 0)).hmac256 5 9 0).2 ∧
    ¬ Accepted (candidate (signer (firstCandidate (BitVec.ofNat 256 Config.N))).hmac256 5 9 0).2 ∧
    ((signer (toy (-1))).reg 1 = int 9 ∧ (signer (toy (-1))).key.secret = 5 ∧
      (∀ i, i < 1 → ¬ Accepted (candidate (signer (toy (-1))).hmac256 5 9 i).2) ∧
      Accepted (candidate (signer (toy (-1))).hmac256 5 9 1).2) ∧
    Accepted (candidate (signer (firstCandidate 1)).hmac256 (signer []).key.secret ((signer []).reg 1).val 0).2 ∧
    signChecks (signer []) 2 = some ⟨.emptyRegister, 3⟩ ∧ signChecks keyed 2 = some ⟨.operandType, 3⟩ ∧
    signChecks mixed 1 = some ⟨.noKey, 0⟩ := by
  unfold Accepted
  decide +kernel

theorem witness_NonceAndSignatureRanges :
    ((busy (signer (firstCandidate 3)) 0x63210000#32).runState = .busy ∧
      isNext (exec (.nonce 2 1) (busy (signer (firstCandidate 3)) 0x63210000#32)) = true ∧
      (result (.nonce 2 1) (busy (signer (firstCandidate 3)) 0x63210000#32)).runState = .idle) ∧
    isNext (exec (.sign 2 3 1) (busy (signer (firstCandidate 3)) 0x64231000#32)) = true ∧
    (result (.sign 2 3 1) (busy (signer (firstCandidate 3)) 0x64231000#32)).runState = .idle := by decide +kernel

theorem one_mod_pow (e : Nat) : (1 % Config.N) ^ e % Config.N = 1 := by
  rw [Nat.mod_eq_of_lt (by decide : 1 < Config.N), Nat.one_pow, Nat.mod_eq_of_lt (by decide : 1 < Config.N)]

theorem zero_mod_pow (e : Nat) (h : 0 < e) : (0 % Config.N) ^ e % Config.N = 0 := by
  rw [Nat.zero_mod, Nat.zero_pow h, Nat.zero_mod]

/-- Verification with the inverse of `s` given. -/
theorem verifies_of {z r s si : Nat} {Q : Point} (h : (s % Config.N) ^ (Config.N - 2) % Config.N = si) :
    Verifies z r s Q ↔ ∃ x y, (scalarMul (z * si % Config.N) basePoint).add (scalarMul (r * si % Config.N) Q) =
      .affine x y ∧ x = r := by
  subst h
  exact Iff.rfl

/-- A signature that verifies, by hand: `z = s = 1`, `r = GX`, `Q` the identity; and one that does not, for its `s` is 0. -/
theorem witness_VerifyCommand : (true = true ↔ Verifies 1 Config.GX 1 .identity) ∧
    (false = true ↔ Verifies 1 Config.GX 0 .identity) := by
  rw [verifies_of (one_mod_pow _), verifies_of (zero_mod_pow _ (by decide))]
  refine ⟨iff_of_true rfl ⟨Config.GX, Config.GY, by decide +kernel, rfl⟩, iff_of_false (by decide) ?_⟩
  rintro ⟨x, y, h, -⟩
  have h0 : (scalarMul (1 * 0 % Config.N) basePoint).add (scalarMul (Config.GX * 0 % Config.N) .identity) = .identity := by
    decide +kernel
  exact Point.noConfusion (h0.symm.trans h)

theorem witness_VerifyCommand_checks :
    (nonempty mixed 1 1 <| nonempty mixed 2 6 <| nonempty mixed 3 1 <| nonemptyPt mixed 4 2 <| integer mixed 1 1 <|
      integer mixed 2 6 <| integer mixed 3 1 none) = none ∧
    (nonempty mixed 1 1 <| nonempty mixed 2 6 <| nonempty mixed 3 1 <| nonemptyPt mixed 4 0 <| integer mixed 1 1 <|
      integer mixed 2 6 <| integer mixed 3 1 none) = some ⟨.emptyRegister, 4⟩ ∧
    (nonempty mixed 1 1 <| nonempty mixed 2 4 <| nonempty mixed 3 1 <| nonemptyPt mixed 4 2 <| integer mixed 1 1 <|
      integer mixed 2 4 <| integer mixed 3 1 none) = some ⟨.operandType, 2⟩ := by decide +kernel

/-- The signature with the nonce 1, whose inverse is 1. -/
theorem signatureOf_one (z d : Nat) : (signatureOf z d 1).2 =
    (if (z + (scalarMul 1 basePoint).xCoord * d) * 1 % Config.N > Config.N / 2 then
      Config.N - (z + (scalarMul 1 basePoint).xCoord * d) * 1 % Config.N
     else (z + (scalarMul 1 basePoint).xCoord * d) * 1 % Config.N) := by
  simp only [signatureOf, Nat.one_pow]

/-- The nonce 1, with the smallest and the largest key. -/
theorem witness_SignatureVerifies : (1 ≤ Config.N - 1 ∧ Config.N - 1 < Config.N) ∧ 1 < Config.N ∧
    (signatureOf 1 1 1).2 ≠ 0 ∧ (signatureOf 0 (Config.N - 1) 1).2 ≠ 0 := by
  rw [signatureOf_one, signatureOf_one]
  decide +kernel

/-- A command that fails and an ill-formed term that fails. -/
theorem witness_ErrorsArePrecise : (busy mixed 0x03100000#32).runState = .busy ∧
    isNext (exec (.mov 1 0) (busy mixed 0x03100000#32)) = true ∧
    (result (.mov 1 0) (busy mixed 0x03100000#32)).runState = .error ∧
    isNext (exec (.ldc 1 12) (busy mixed 0)) = true ∧ (result (.ldc 1 12) (busy mixed 0)).runState = .error := by
  decide +kernel

theorem witness_CommandsEnd : ¬ DrawsNonce (.verify 1 1 1 1) ∧ ¬ DrawsNonce (.keyld 1) := by
  constructor <;> rintro (⟨_, _, h⟩ | ⟨_, _, _, h⟩) <;> cases h

/-- A command that writes a register, one that writes the key slot, one in error, and NONCE in both of its ends. -/
theorem witness_CommandFrame :
    exec (.mov 9 1) (busy mixed 0x03910000#32) = .next (result (.mov 9 1) (busy mixed 0x03910000#32)) ∧
    exec (.keyld 1) (busy mixed 0x60100000#32) = .next (result (.keyld 1) (busy mixed 0x60100000#32)) ∧
    exec (.keypub 0) mixed = .next (result (.keypub 0) mixed) ∧
    exec (.nonce 2 1) (signer (firstCandidate 3)) = .next (result (.nonce 2 1) (signer (firstCandidate 3))) ∧
    exec (.nonce 2 1) (signer (toy 0)) = .next (result (.nonce 2 1) (signer (toy 0))) :=
  ⟨result_spec (by decide +kernel), result_spec (by decide +kernel), result_spec (by decide +kernel),
    result_spec (by decide +kernel), result_spec (by decide +kernel)⟩

/-- A command for each flag, and one in error. -/
theorem witness_FlagWriters :
    exec (.icmp 1 6) mixed = .next (result (.icmp 1 6) mixed) ∧ (result (.icmp 1 6) mixed).flags.lt = true ∧
    exec (.ptest 2) mixed = .next (result (.ptest 2) mixed) ∧ (result (.ptest 2) mixed).flags.inf = true ∧
    ((busy mixed 0x13120000#32).runState = .busy ∧ (result (.icmp 1 2) (busy mixed 0x13120000#32)).runState = .error) :=
  ⟨result_spec (by decide +kernel), by decide +kernel, result_spec (by decide +kernel), by decide +kernel,
    by decide +kernel⟩

theorem witness_HmacRequestShapes :
    exec (.nonce 2 1) (signer (firstCandidate 3)) = .next (result (.nonce 2 1) (signer (firstCandidate 3))) ∧
    (result (.nonce 2 1) (signer (firstCandidate 3))).env.hmac.answered.length = 5 :=
  ⟨result_spec (by decide +kernel), by decide +kernel⟩

theorem witness_SecretStaysHidden : ¬ DrawsNonce (.keypub 3) ∧ isNext (exec (.keypub 3) keyed) = true :=
  ⟨by (rintro (⟨_, _, h⟩ | ⟨_, _, _, h⟩) <;> cases h), by decide +kernel⟩

theorem witness_RegisterReads : mixed.runState ≠ .busy ∧ failed.runState ≠ .busy := by decide +kernel

/-- Every clause at the ends of its ranges, and an ill-formed access inside a closed window (log entry 9). -/
theorem witness_RefusedAccesses :
    (¬ WellFormed 0x000 1 ∧ ¬ WellFormed 0x002 4 ∧ ¬ WellFormed 0x1000 4) ∧
    (moving.runState = .busy ∧ ¬ WellFormed 0x401 4 ∧ InWindows 0x401 ∧ ¬ WellFormed 0x400 1 ∧ InWindows 0x400) ∧
    (WellFormed 0x400 4 ∧ InWindows 0x400 ∧ WellFormed 0xBFC 4 ∧ InWindows 0xBFC ∧ moving.runState = .busy) ∧
    (∀ off ∈ [0x028, 0x3FC, 0x424, 0x43C, 0x7E4, 0x7FC, 0x844, 0x87C, 0xBC4, 0xBFC, 0xC00, 0xFFC],
      WellFormed off 4 ∧ Unmapped off) ∧
    (WellFormed 0x3FC 4 ∧ ¬ InWindows 0x3FC ∧ Unmapped 0x3FC ∧ WellFormed 0xC00 4 ∧ ¬ InWindows 0xC00 ∧ Unmapped 0xC00) ∧
    (ReadOnly 0x000 ∧ ReadOnly 0x024 ∧ ReadOnly 0x420 ∧ ReadOnly 0x7E0 ∧ ReadOnly 0x800 ∧ ReadOnly 0xBC0) := by
  unfold WellFormed InWindows Unmapped ReadOnly
  refine ⟨?_, ?_, ?_, ?_, ?_, ?_⟩ <;> decide +kernel

theorem witness_ControlWrites : mixed.runState = .idle ∧ moving.runState ≠ .idle ∧ failed.runState ≠ .idle := by
  decide +kernel

/-- The first and the last word of a register. -/
theorem witness_RegisterWrites : mixed.runState ≠ .busy ∧ Replaced 0 0 5 (5 <<< 224) ∧ Replaced (2 ^ 255) 7 5 (2 ^ 255 + 5) := by
  unfold Replaced
  decide +kernel

theorem witness_OperandLoad : mixed.runState ≠ .busy ∧ failed.runState ≠ .busy := by decide +kernel

/-- The core is next, with an empty agenda and as the agenda's next move. -/
theorem witness_StepRunsTheCommand :
    (CoreMoves moving 0x03210000#32 moving ∧ decode 0x03210000#32 = .ok (.mov 2 1)) ∧
    CoreMoves (moving.withAgenda [.coreTurn, .assertReset]) 0x03210000#32 (moving.withAgenda [.assertReset]) := by
  refine ⟨⟨⟨by decide +kernel, by decide +kernel, by decide +kernel, .inl ⟨by decide +kernel, rfl⟩⟩, by decide⟩,
    ⟨by decide +kernel, by decide +kernel, by decide +kernel, .inr ⟨[.assertReset], by decide +kernel, rfl⟩⟩⟩

/-- No command of the encoder has an opcode above 0x65. -/
theorem encode_opcode_le (i : Instr) : (encode i).toNat < 0x66000000 := by
  have hb : ∀ b : Bool, b.toNat < 2 := by decide
  have hm : ∀ m : FieldSel, m.bit < 2 := by intro m; cases m <;> decide
  cases i with
  | fnew rd ra m | ired rd ra m =>
    have := hm m
    simp only [encode, packWord, BitVec.toNat_ofNat, Instr.opcode]
    omega
  | pdecomp pd rx odd =>
    have := hb odd
    simp only [encode, packWord, BitVec.toNat_ofNat, Instr.opcode]
    omega
  | _ =>
    simp only [encode, packWord, BitVec.toNat_ofNat, Instr.opcode]
    omega

theorem witness_IllegalWordsAreErrors :
    CoreMoves (busy mixed 0x66000000#32) 0x66000000#32 (busy mixed 0x66000000#32) ∧
    ∀ i : Instr, i.wellFormed = true → encode i ≠ 0x66000000#32 := by
  refine ⟨⟨by decide +kernel, by decide +kernel, by decide +kernel, .inl ⟨by decide +kernel, rfl⟩⟩, fun i _ h => ?_⟩
  have := encode_opcode_le i
  rw [h] at this
  exact absurd this (by decide)

theorem witness_StepMakesTheAccess :
    (mixed.withAgenda [.read 0x000 4]).resetLine = false ∧
    (mixed.withAgenda [.read 0x000 4]).env.agenda = .read 0x000 4 :: [] ∧
    (moving.withAgenda [.write 0x45C 4 9, .coreTurn]).env.agenda = .write 0x45C 4 9 :: [.coreTurn] := by decide +kernel

/-- An empty agenda and one with the core's turn at its head. -/
theorem witness_CoreAtRest : CoreTurn mixed mixed ∧
    CoreTurn (mixed.withAgenda [.coreTurn, .read 0x000 4]) (mixed.withAgenda [.read 0x000 4]) :=
  ⟨.inl ⟨by decide +kernel, rfl⟩, .inr ⟨_, rfl, rfl⟩⟩

/-- The run states of each clause. -/
theorem witness_CoreAtRest_states : mixed.env.agenda = [] ∧ mixed.runState ≠ .busy ∧ failed.env.agenda = [] ∧
    failed.runState ≠ .busy ∧ mixed.assertReset.resetLine = true ∧
    ({ mixed with runState := .busy } : State).pending = none ∧ mixed.resetLine = false := by decide +kernel

theorem witness_ResetFromAnywhere :
    (moving.withAgenda [.assertReset, .releaseReset]).env.agenda = .assertReset :: [.releaseReset] := by decide +kernel

/-- Both enables set, a command done, and `IDLE`. -/
theorem witness_InterruptLevel : (after (State.reset.hostWrite 0x004 4 3) 0).irq = true ∧
    (after (State.reset.hostWrite 0x004 4 3) 0).runState = .idle ∧ failed.irq = true := by decide +kernel

/-- The three cases: a core turn, an accepted command, and reset; and a dropped command. -/
theorem witness_SeqCountsCommands :
    step moving = .next (turn moving) ∧
    step (mixed.withAgenda [.write 0x018 4 7]) = .next (turn (mixed.withAgenda [.write 0x018 4 7])) ∧
    (turn (mixed.withAgenda [.write 0x018 4 7])).seq = 1 ∧
    step (moving.withAgenda [.write 0x018 4 7]) = .next (turn (moving.withAgenda [.write 0x018 4 7])) ∧
    (turn (moving.withAgenda [.write 0x018 4 7])).seq = moving.seq ∧
    step (moving.withAgenda [.assertReset]) = .next (turn (moving.withAgenda [.assertReset])) :=
  ⟨turn_spec (by decide +kernel), turn_spec (by decide +kernel), by decide +kernel, turn_spec (by decide +kernel),
    by decide +kernel, turn_spec (by decide +kernel)⟩

/-- A machine with every FAULT bit set, whose next move acknowledges everything. -/
def faulty : State :=
  ({ mixed with fault := ⟨true, true, true⟩ } : State).withAgenda [.write 0x014 4 0xFFFFFFFF#32]

theorem witness_FaultIsSticky : step faulty = .next (turn faulty) ∧ faulty.env.agenda.head? ≠ some .assertReset ∧
    faulty.fault.cmdovr = true ∧ faulty.fault.accv = true ∧ faulty.fault.buserr = true :=
  ⟨turn_spec (by decide +kernel), by decide +kernel, by decide +kernel, by decide +kernel, by decide +kernel⟩

/-- A state with registers of every kind and a point addition under way is bounded, and its step is a next state. -/
theorem witness_StepKeepsValuesReduced : Bounded (busy mixed 0x42312000#32) ∧
    step (busy mixed 0x42312000#32) = .next (turn (busy mixed 0x42312000#32)) ∧
    (turn (busy mixed 0x42312000#32)).point 3 = ptG := by
  refine ⟨?_, turn_spec (by decide +kernel), by decide +kernel⟩
  unfold Bounded State.RegsOk ValReg.Ok
  decide +kernel

/-- A nonce derivation between two candidates, an error, and a command under way. -/
theorem witness_StepKeepsControl : Controlled failed ∧ Controlled moving ∧
    Controlled (result (.nonce 2 1) (busy (signer (toy 0)) 0x63210000#32)) ∧
    (result (.nonce 2 1) (busy (signer (toy 0)) 0x63210000#32)).work.ratcheting = true := by
  unfold Controlled State.ControlOk State.HiddenOk State.ResetHeld
  refine ⟨⟨?_, ?_, ?_⟩, ⟨?_, ?_, ?_⟩, ⟨?_, ?_, ?_⟩, ?_⟩ <;> decide +kernel

/-- The same state is sound, with a key loaded. -/
theorem witness_StepKeepsPointsOnCurve : Sound (busy keyed 0x42312000#32) ∧
    step (busy keyed 0x42312000#32) = .next (turn (busy keyed 0x42312000#32)) := by
  refine ⟨?_, turn_spec (by decide +kernel)⟩
  unfold Sound State.RegsOk State.PointsOk State.KeyOk ValReg.Ok PointReg.Ok KeySlot.Ok
  decide +kernel

/-- Two elements of one field, a nonzero divisor, and the commands of each clause. -/
theorem witness_FieldLaws : (mixed.reg 2).Ok ∧ (mixed.reg 3).Ok ∧ (mixed.reg 2).tag = .fp ∧
    (mixed.reg 3).tag = (mixed.reg 2).tag ∧ num mixed 2 ≠ 0 ∧ (10 : RegIdx) ≠ 3 ∧ (10 : RegIdx) ≠ 2 ∧
    isNext (exec (.fadd 10 2 3) mixed) = true ∧
    isNext (exec (.fsub 11 10 3) (result (.fadd 10 2 3) mixed)) = true ∧
    isNext (exec (.finv 10 2) mixed) = true ∧ isNext (exec (.fmul 11 2 10) (result (.finv 10 2) mixed)) = true ∧
    isNext (exec (.fdiv 11 2 3) mixed) = true := by
  unfold ValReg.Ok
  decide +kernel

/-- The largest product of two elements, and elements at both ends of the range. -/
theorem witness_MontgomeryReduction : (Config.P - 1) * (Config.P - 1) < Tag.fp.modulus * 2 ^ 256 ∧
    2 ^ 256 - 1 < 2 ^ 256 ∧ Tag.fn.modulus * 2 ^ 256 - 1 < Tag.fn.modulus * 2 ^ 256 ∧ 0 < Tag.fn.modulus ∧ Config.N - 1 < Tag.fn.modulus := by
  decide

theorem witness_WordSerialMultiplier : (0 < 1 ∧ 1 ∣ 256) ∧ (0 < 64 ∧ 64 ∣ 256) ∧ (0 < 256 ∧ 256 ∣ 256) ∧
    Config.P - 1 < Tag.fp.modulus := by decide

theorem witness_InverseEngine : 0 < Tag.fp.modulus ∧ Config.P - 1 < Tag.fp.modulus ∧ 1 < Tag.fn.modulus := by decide

theorem witness_NoZeroCoordinate : Config.GX < Config.P ∧ Config.GY < Config.P ∧ OnCurve Config.GX Config.GY := by decide

theorem witness_AdditionLaws : Valid .identity ∧ Valid basePoint ∧ Valid (.affine Config.GX (Config.P - Config.GY)) := by
  refine ⟨trivial, ⟨by decide, by decide, by decide⟩, ⟨by decide, by decide, by decide⟩⟩

/-- Affine points of the curve. -/
theorem witness_ScalarFacts : Valid (.affine Config.GX Config.GY) ∧ Valid (.affine Config.GX (Config.P - Config.GY)) :=
  witness_AdditionLaws.2

/-- `G` has an even ordinate: its abscissa and parity recover it (R246's example). -/
theorem witness_RecoveryRoundTrip : mixed.PointsOk ∧ (mixed.point 1).ptag = .affine ∧
    mixed.reg 7 = ⟨.fp, (mixed.point 1).x⟩ ∧
    exec (.pdecomp 4 7 ((mixed.point 1).y.getLsbD 0)) mixed =
      .next (result (.pdecomp 4 7 ((mixed.point 1).y.getLsbD 0)) mixed) := by
  refine ⟨?_, by decide +kernel, by decide +kernel, result_spec (by decide +kernel)⟩
  unfold State.PointsOk PointReg.Ok
  decide +kernel

/-- The triple of the identity and triples of affine points. -/
theorem witness_JacobianPipeline : (Config.GX < Config.P ∧ Config.GY < Config.P) ∧ Triple Jac.identity ∧ Triple basePoint.toJac ∧ Triple ⟨0, 0, 0⟩ ∧
    Triple ⟨Config.P - 1, Config.P - 1, Config.P - 1⟩ := by
  unfold Triple
  decide

theorem witness_VarintRoundTrip : 0 < 2 ^ 64 ∧ 2 ^ 64 - 1 < 2 ^ 64 ∧ 2 ^ 64 ≤ 2 ^ 64 ∧
    varintEncode 0xFC = .ok [0xFC] ∧ varintEncode 0xFD = .ok [0xFD, 0xFD, 0x00] := by decide

/-- R318: a leading zero byte gives `1`, whatever the alphabet; 58 is the digits 1 and 0. -/
theorem test_base58_zeros : base58 (fun _ => 'x') [0, 0, 57] = ['1', '1', 'x'] ∧
    base58 (fun i => if i = 0 then 'a' else 'b') [58] = ['b', 'a'] := by decide

end Sys2Proof.Tests
end

section
/-! What a command leaves unchanged (30_encoding.md R96, 10_state.md R17, R24, R46, 45_ecdsa.md R270), and the step that is
one access of the host (00_scope.md R16, 20_memory.md R62, R63). -/

namespace Sys2Proof.Proofs

open Sys2Proof Sys2Proof.Machine Sys2Proof.Spec

/-! ### The frame of a command -/

/-- The commands that write the key slot (R270, R272, R274). -/
def WritesKey (i : Instr) : Prop := (∃ r, i = .keyld r) ∨ i = .keyclr

/-- `t` differs from `s` at most in what the command `i` may write. The flags, how the command ends (R72,
R350), the hidden state and the log of HMAC requests are left open: they have statements of their own. -/
structure Framed (i : Instr) (s t : State) : Prop where
  reg : ∀ k : RegIdx, k ∉ regDests i → t.reg k = s.reg k
  point : ∀ j : PtIdx, j ∉ pointDests i → t.point j = s.point j
  ctrl : t.ctrl = s.ctrl
  seq : t.seq = s.seq
  lastCmd : t.lastCmd = s.lastCmd
  fault : t.fault = s.fault
  resetLine : t.resetLine = s.resetLine
  agenda : t.env.agenda = s.env.agenda
  answers : t.env.answers = s.env.answers
  freeCount : t.env.freeCount = s.env.freeCount
  table : t.env.hmac.table = s.env.hmac.table
  answering : t.env.hmac.answering = s.env.hmac.answering
  key : t.key = s.key ∨ WritesKey i

namespace Framed

variable {i : Instr} {s t : State}

theorem refl (i : Instr) (s : State) : Framed i s s where
  reg _ _ := rfl
  point _ _ := rfl
  ctrl := rfl
  seq := rfl
  lastCmd := rfl
  fault := rfl
  resetLine := rfl
  agenda := rfl
  answers := rfl
  freeCount := rfl
  table := rfl
  answering := rfl
  key := .inl rfl

theorem writeReg (h : Framed i s t) {d : RegIdx} (hd : d ∈ regDests i) (v : ValReg) : Framed i s (t.writeReg d v) :=
  { h with
    reg := fun k hk => by
      have hne : d ≠ k := fun e => hk (e ▸ hd)
      rw [State.reg_writeReg_ne t hne, h.reg k hk] }

theorem writePoint (h : Framed i s t) {d : PtIdx} (hd : d ∈ pointDests i) (v : PointReg) :
    Framed i s (t.writePoint d v) :=
  { h with
    point := fun j hj => by
      have hne : d ≠ j := fun e => hj (e ▸ hd)
      rw [State.point_writePoint_ne t hne, h.point j hj] }

theorem writeKey (h : Framed i s t) (hi : WritesKey i) (k : KeySlot) : Framed i s (t.writeKey k) :=
  { h with key := .inr hi }

theorem writeFlags (h : Framed i s t) (f : FlagBits) : Framed i s (t.writeFlags f) := { h with }

theorem finish (h : Framed i s t) : Framed i s t.finish := { h with }

theorem raiseError (h : Framed i s t) (e : ErrorRecord) : Framed i s (t.raiseError e) := { h with }

theorem logRequests (h : Framed i s t) (rs : List HmacRequest) : Framed i s (t.logRequests rs) := { h with }

theorem keepRatchet (h : Framed i s t) (r : Ratchet) : Framed i s (t.keepRatchet r) := { h with }

/-- A turn of the nonce loop keeps the frame if the use of an accepted candidate does. -/
theorem nonceTurn (h : Framed i s t) (z : Val) {use : Val → State → State}
    (hu : ∀ k u, Framed i s u → Framed i s (use k u)) : Framed i s (nonceTurn t z use) := by
  rcases nonceTurn_cases t z use with ⟨-, hn⟩ | ⟨-, -, hn⟩ | ⟨-, -, hn⟩ <;> rw [hn]
  · exact h
  · exact h.keepRatchet _
  · exact hu _ _ (h.logRequests _)

/-- A checked command keeps the frame if its success does: error entry always does. -/
theorem of_guarded {cs : List Check} {u : State} (h : Framed i s u) (hg : guarded cs s u = .next t) : Framed i s t := by
  rcases guarded_next hg with ⟨-, rfl⟩ | ⟨e, -, rfl⟩
  · exact h
  · exact (Framed.refl i s).raiseError e

end Framed

/-- Every command keeps its frame; the cases are grouped by what success writes. -/
theorem exec_framed {i : Instr} {s t : State} (h : exec i s = .next t) : Framed i s t := by
  cases i
  case nop => exact Framed.of_guarded (cs := []) (Framed.refl _ s).finish h
  case ldi | clr =>
    exact Framed.of_guarded (cs := []) ((Framed.refl _ s).writeReg (List.mem_singleton_self _) _).finish h
  case ldc | mov | fnew | fint | ired | fadd | fsub | fmul | fpow | mmul | mto | mfrom | pgetx | pgety | fsqrt =>
    exact Framed.of_guarded ((Framed.refl _ s).writeReg (List.mem_singleton_self _) _).finish h
  case fdiv | finv =>
    exact Framed.of_guarded (((Framed.refl _ s).writeReg (List.mem_singleton_self _) _).writeFlags _).finish h
  case pclr | pinf =>
    exact Framed.of_guarded (cs := []) ((Framed.refl _ s).writePoint (List.mem_singleton_self _) _).finish h
  case pmov | pnew | padd | pmul | pmulg | pdecomp | keypub =>
    exact Framed.of_guarded ((Framed.refl _ s).writePoint (List.mem_singleton_self _) _).finish h
  case icmp | feq | peq | ptest | verify =>
    exact Framed.of_guarded ((Framed.refl _ s).writeFlags _).finish h
  case keyld rs =>
    exact Framed.of_guarded ((Framed.refl _ s).writeKey (.inl ⟨rs, rfl⟩) _).finish h
  case keyclr =>
    exact Framed.of_guarded (cs := []) ((Framed.refl _ s).writeKey (.inr rfl) _).finish h
  case nonce rd rz =>
    exact Framed.of_guarded
      ((Framed.refl _ s).nonceTurn _ fun _ _ hu => (hu.writeReg (List.mem_singleton_self rd) _).finish) h
  case sign rr rs rz =>
    have hr : rr ∈ regDests (.sign rr rs rz) := List.mem_cons_self
    have hs : rs ∈ regDests (.sign rr rs rz) := List.mem_cons_of_mem _ (List.mem_singleton_self rs)
    exact Framed.of_guarded
      ((Framed.refl _ s).nonceTurn _ fun _ _ hu => ((hu.writeReg hr _).writeReg hs _).finish) h

/-- Settles O29: the fields of the frame that every command keeps. -/
theorem commandFrame : Obligations.CommandFrame := by
  unfold Obligations.CommandFrame
  intro i s t h
  have f := exec_framed h
  exact ⟨f.reg, f.point, f.ctrl, f.seq, f.lastCmd, f.fault, f.resetLine, f.agenda, f.answers, f.freeCount, f.table,
    f.answering, f.key⟩

/-! ### The step that is a host access -/

/-- A read changes nothing outside the block; the model logs its answer after it (log entry 8). -/
@[simp] theorem hostRead_env (s : State) (off n : Nat) : (s.hostRead off n).2.env = s.env := by
  rcases hostRead_cases s off n with h | ⟨-, h⟩ | ⟨-, w, -, h⟩ <;> rw [h] <;> rfl

/-- A step whose next move is a read (R62). -/
theorem step_of_read {s : State} {off n : Nat} {rest : List Move} (hr : s.resetLine = false)
    (ha : s.env.agenda = .read off n :: rest) :
    step s = .next (((s.withAgenda rest).hostRead off n).2.answer ((s.withAgenda rest).hostRead off n).1) := by
  simp [step, nextMove, ha, playMove, readMove, hr]

/-- A step whose next move is a write (R63). -/
theorem step_of_write {s : State} {off n : Nat} {d : Word} {rest : List Move} (hr : s.resetLine = false)
    (ha : s.env.agenda = .write off n d :: rest) : step s = .next ((s.withAgenda rest).hostWrite off n d) := by
  simp [step, nextMove, ha, playMove, writeMove, hr]

/-- Settles O41: the step of a read, whose access leaves the log as it was, and the step of a write. -/
theorem stepMakesTheAccess : Obligations.StepMakesTheAccess := by
  unfold Obligations.StepMakesTheAccess
  intro s rest hr
  refine ⟨fun off n ha => ?_, fun off n d ha => step_of_write hr ha⟩
  have henv : ((s.withAgenda rest).hostRead off n).2.env.answers = s.env.answers := by
    rw [hostRead_env]; rfl
  rw [step_of_read hr ha, State.answer, henv]
  rfl

end Sys2Proof.Proofs
end

section
/-! What the registers hold, in every step (10_state.md R23, R27, R30, R32; 43_point.md R211): one invariant, whose demands
on point registers and on the key slot are parameters. With reduced coordinates it is O48, with points on the curve O50. -/

namespace Sys2Proof.Proofs

open Sys2Proof Sys2Proof.Machine Sys2Proof.Spec

/-! ### Values that commands write -/

/-- A register holds an integer of 256 bits as it is (R15). -/
theorem toNat_ofNat_of_lt {v : Nat} (h : v < 2 ^ 256) : (BitVec.ofNat 256 v).toNat = v := by
  rw [BitVec.toNat_ofNat, Nat.mod_eq_of_lt h]

theorem int_ok (v : Val) : ValReg.Ok ⟨.int, v⟩ := ⟨nofun, nofun, nofun⟩

theorem empty_ok : ValReg.Ok ⟨.empty, 0⟩ := ⟨fun _ => rfl, nofun, nofun⟩

/-- An element below its modulus may stand in a register (R23). -/
theorem element_ok {t : Tag} {v : Nat} (ht : t.isField = true) (hv : v < t.modulus) : (tagged t v).Ok := by
  have hval : (tagged t v).val.toNat = v := toNat_ofNat_of_lt (hv.trans t.modulus_lt)
  cases t with
  | empty => cases ht
  | int => cases ht
  | fp => exact ⟨nofun, fun _ => hval.symm ▸ hv, nofun⟩
  | fn => exact ⟨nofun, nofun, fun _ => hval.symm ▸ hv⟩

theorem fieldTag_isField (m : FieldSel) : (fieldTag m).isField = true := by cases m <;> rfl

/-- The checks of a command that goes through tell that each of them holds. -/
theorem holds_of_mem {cs : List Check} (h : firstFailing cs = none) {c : Check} (hc : c ∈ cs) : c.holds = true :=
  firstFailing_eq_none.mp h c hc

/-- The range that a command which goes through has checked (R344). -/
theorem inRange_of_mem {cs : List Check} (h : firstFailing cs = none) {n : BitVec 4} {p : Prop} [Decidable p]
    (hm : inRange n (decide p) ∈ cs) : p :=
  of_decide_eq_true (p := p) (holds_of_mem h hm)

/-- The field of `P` that a command which goes through has checked (R347). -/
theorem inFieldP_of_mem {cs : List Check} (h : firstFailing cs = none) {n : BitVec 4} {i : RegIdx} {s : State}
    (hm : inFieldP n i s ∈ cs) : s.tagOf i = .fp :=
  of_decide_eq_true (holds_of_mem h hm)

/-- The curve equation that a command which goes through has checked (R348). -/
theorem onCurve_of_mem {cs : List Check} (h : firstFailing cs = none) {x y : Nat} (hm : coordsOnCurve x y ∈ cs) :
    onCurve x y = true :=
  holds_of_mem h hm

/-- The value of an element of the field of `P` is a coordinate (R23). -/
theorem valOf_lt_P {s : State} (hs : s.RegsOk) {i : RegIdx} (h : s.tagOf i = .fp) : s.valOf i < Config.P := (hs i).2.1 h

theorem sqrtCandidate_lt (v : Nat) : sqrtCandidate v < Config.P := powMod_lt Config.P_pos _ _

/-- The root of the wanted parity is reduced unless it would be `P - 0` (R246). -/
theorem rootOfParity_lt {b : Nat} {odd : Bool} (hb : b < Config.P) (h : b % 2 = odd.toNat ∨ b ≠ 0) :
    rootOfParity b odd < Config.P := by
  unfold rootOfParity
  split <;> omega

/-! ### The invariant -/

/-- A demand `G` on point registers and a demand `K` on key slots that the operations of the commands meet. -/
structure Demands (G : PointReg → Prop) (K : KeySlot → Prop) : Prop where
  nothing : G PointReg.nothing
  identity : G Point.identity.toReg
  affine : ∀ {x y : Nat}, x < Config.P → y < Config.P → onCurve x y = true → G (Point.affine x y).toReg
  coords : ∀ {r : PointReg}, G r → r.x.toNat < Config.P ∧ r.y.toNat < Config.P
  add : ∀ {a b : PointReg}, G a → G b → G (a.pt.add b.pt).toReg
  mul : ∀ (k : Nat) {a : PointReg}, G a → G (scalarMul k a.pt).toReg
  pub : ∀ {k : KeySlot}, K k → G k.pub
  noKey : K ⟨false, 0, PointReg.nothing⟩
  loaded : ∀ {d : Val}, 1 ≤ d.toNat → d.toNat < Config.N → K ⟨true, d, (scalarMul d.toNat basePoint).toReg⟩

/-- R23 for the value registers, `G` for the point registers, `K` for the key slot. -/
structure Holds (G : PointReg → Prop) (K : KeySlot → Prop) (s : State) : Prop where
  regs : s.RegsOk
  points : ∀ j, G (s.point j)
  key : K s.key

namespace Holds

variable {G : PointReg → Prop} {K : KeySlot → Prop} {s t : State}

theorem writeReg (h : Holds G K s) (i : RegIdx) {v : ValReg} (hv : v.Ok) : Holds G K (s.writeReg i v) :=
  { h with
    regs := fun k => by
      rw [State.reg_writeReg]
      split
      · exact hv
      · exact h.regs k }

theorem writePoint (h : Holds G K s) (j : PtIdx) {v : PointReg} (hv : G v) : Holds G K (s.writePoint j v) :=
  { h with
    points := fun k => by
      rw [State.point_writePoint]
      split
      · exact hv
      · exact h.points k }

theorem writeKey (h : Holds G K s) {k : KeySlot} (hk : K k) : Holds G K (s.writeKey k) := ⟨h.regs, h.points, hk⟩

/-- The invariant speaks of the registers and the key slot alone. -/
theorem congr (h : Holds G K s) (hr : t.regs = s.regs) (hp : t.points = s.points) (hk : t.key = s.key) :
    Holds G K t where
  regs i := by rw [State.reg, hr]; exact h.regs i
  points j := by rw [State.point, hp]; exact h.points j
  key := hk ▸ h.key

theorem writeFlags (h : Holds G K s) (f : FlagBits) : Holds G K (s.writeFlags f) := h.congr rfl rfl rfl

theorem finish (h : Holds G K s) : Holds G K s.finish := h.congr rfl rfl rfl

theorem raiseError (h : Holds G K s) (e : ErrorRecord) : Holds G K (s.raiseError e) := h.congr rfl rfl rfl

theorem logRequests (h : Holds G K s) (rs : List HmacRequest) : Holds G K (s.logRequests rs) := h.congr rfl rfl rfl

theorem keepRatchet (h : Holds G K s) (r : Ratchet) : Holds G K (s.keepRatchet r) := h.congr rfl rfl rfl

theorem reset (D : Demands G K) : Holds G K State.reset where
  regs i := by rw [State.reset_reg]; exact empty_ok
  points j := by rw [State.reset_point]; exact D.nothing
  key := D.noKey

/-- The abscissa and the ordinate that a point register holds are elements of the field of `P`. -/
theorem coordinate_ok (D : Demands G K) (h : Holds G K s) (j : PtIdx) :
    ValReg.Ok ⟨.fp, (s.point j).x⟩ ∧ ValReg.Ok ⟨.fp, (s.point j).y⟩ := by
  obtain ⟨hx, hy⟩ := D.coords (h.points j)
  exact ⟨⟨nofun, fun _ => hx, nofun⟩, ⟨nofun, fun _ => hy, nofun⟩⟩

/-- A result in the field of an operand that the checks found to be an element. -/
theorem writeElement (h : Holds G K s) {cs : List Check} (hc : firstFailing cs = none) {n : BitVec 4} {ra : RegIdx}
    (hm : isElement n ra s ∈ cs) (rd : RegIdx) {v : Nat} (hv : v < (s.tagOf ra).modulus) :
    Holds G K (s.writeReg rd (tagged (s.tagOf ra) v)) :=
  h.writeReg rd (element_ok (holds_of_mem hc hm) hv)

theorem nonceTurn (h : Holds G K s) (z : Val) {use : Val → State → State}
    (hu : ∀ k u, Holds G K u → Holds G K (use k u)) : Holds G K (nonceTurn s z use) := by
  rcases nonceTurn_cases s z use with ⟨-, hn⟩ | ⟨-, -, hn⟩ | ⟨-, -, hn⟩ <;> rw [hn]
  · exact h
  · exact h.keepRatchet _
  · exact hu _ _ (h.logRequests _)

/-- A checked command keeps the invariant if its success, of which the checks are known, does. -/
theorem of_guarded {cs : List Check} {u : State} (hg : guarded cs s u = .next t) (h : Holds G K s)
    (hu : firstFailing cs = none → Holds G K u) : Holds G K t := by
  rcases guarded_next hg with ⟨hc, rfl⟩ | ⟨e, -, rfl⟩
  · exact hu hc
  · exact h.raiseError e

end Holds

/-! ### Every command keeps it -/

theorem mem_elementPair (ra rb : RegIdx) (s : State) : isElement 2 ra s ∈ elementPair ra rb s := by simp [elementPair]

theorem mem_elementOperand (n : BitVec 4) (ra : RegIdx) (s : State) : isElement n ra s ∈ elementOperand n ra s := by
  simp [elementOperand]

theorem mem_elementPOperand (n : BitVec 4) (ra : RegIdx) (s : State) : inFieldP n ra s ∈ elementPOperand n ra s := by
  simp [elementPOperand]

theorem basePoint_toReg_pt : basePoint.toReg.pt = basePoint := Point.pt_toReg basePoint_reduced

section
variable {G : PointReg → Prop} {K : KeySlot → Prop} {s t : State}

/-- PNEW: the coordinates are elements of the field of `P` and on the curve (R203). -/
theorem pnew_holds (D : Demands G K) (hs : Holds G K s) {pd : PtIdx} {rx ry : RegIdx}
    (h : exec (.pnew pd rx ry) s = .next t) : Holds G K t := by
  refine Holds.of_guarded h hs fun hc => (hs.writePoint pd (D.affine ?_ ?_ ?_)).finish
  · exact valOf_lt_P hs.regs (inFieldP_of_mem hc (n := 2) (by simp))
  · exact valOf_lt_P hs.regs (inFieldP_of_mem hc (n := 3) (by simp))
  · exact onCurve_of_mem hc (by simp)

/-- PDECOMP: the range check refuses the one root that would not be reduced (R246). -/
theorem pdecomp_holds (D : Demands G K) (hs : Holds G K s) {pd : PtIdx} {rx : RegIdx} {odd : Bool}
    (h : exec (.pdecomp pd rx odd) s = .next t) : Holds G K t := by
  refine Holds.of_guarded h hs fun hc => ?_
  have hx := valOf_lt_P hs.regs (inFieldP_of_mem hc (List.mem_append_left _ (mem_elementPOperand 2 rx s)))
  have hr := inRange_of_mem hc (List.mem_append_right _ List.mem_cons_self)
  have hcurve := onCurve_of_mem hc (List.mem_append_right _ (List.mem_cons_of_mem _ List.mem_cons_self))
  have hy := rootOfParity_lt (sqrtCandidate_lt _) hr
  exact (hs.writePoint pd (D.affine hx hy hcurve)).finish

/-- KEYLD: the checks bound the secret (R272). -/
theorem keyld_holds (D : Demands G K) (hs : Holds G K s) {rs : RegIdx} (h : exec (.keyld rs) s = .next t) :
    Holds G K t := by
  refine Holds.of_guarded h hs fun hc => ?_
  obtain ⟨h1, hN⟩ := inRange_of_mem hc (List.mem_append_right _ List.mem_cons_self)
  exact (hs.writeKey (D.loaded h1 hN)).finish

/-- FNEW: the checks bound the new element (R127). -/
theorem fnew_holds (hs : Holds G K s) {rd ra : RegIdx} {m : FieldSel} (h : exec (.fnew rd ra m) s = .next t) :
    Holds G K t := by
  refine Holds.of_guarded h hs fun hc => (hs.writeReg rd (element_ok (fieldTag_isField m) ?_)).finish
  exact inRange_of_mem hc (List.mem_append_right _ List.mem_cons_self)

theorem exec_holds (D : Demands G K) (hs : Holds G K s) {i : Instr} (h : exec i s = .next t) : Holds G K t := by
  cases i
  case nop => exact Holds.of_guarded (cs := []) h hs fun _ => hs.finish
  case ldi rd imm => exact Holds.of_guarded (cs := []) h hs fun _ => (hs.writeReg rd (int_ok _)).finish
  case clr rd => exact Holds.of_guarded (cs := []) h hs fun _ => (hs.writeReg rd empty_ok).finish
  case ldc rd _ | fint rd _ => exact Holds.of_guarded h hs fun _ => (hs.writeReg rd (int_ok _)).finish
  case mov rd ra => exact Holds.of_guarded h hs fun _ => (hs.writeReg rd (hs.regs ra)).finish
  case fnew => exact fnew_holds hs h
  case ired rd ra m =>
    exact Holds.of_guarded h hs fun _ =>
      (hs.writeReg rd (element_ok (fieldTag_isField m) (Nat.mod_lt _ (fieldTag m).modulus_pos))).finish
  case icmp | feq | peq | ptest | verify => exact Holds.of_guarded h hs fun _ => (hs.writeFlags _).finish
  case fadd rd ra rb =>
    exact Holds.of_guarded h hs fun hc =>
      (hs.writeElement hc (mem_elementPair ra rb s) rd (addMod_lt (Tag.modulus_pos _) _ _)).finish
  case fsub rd ra rb =>
    exact Holds.of_guarded h hs fun hc =>
      (hs.writeElement hc (mem_elementPair ra rb s) rd (subMod_lt (Tag.modulus_pos _) _ _)).finish
  case fmul rd ra rb =>
    exact Holds.of_guarded h hs fun hc =>
      (hs.writeElement hc (mem_elementPair ra rb s) rd (mulMod_lt (Tag.modulus_pos _) _ _)).finish
  case fdiv rd ra rb =>
    exact Holds.of_guarded h hs fun hc =>
      ((hs.writeElement hc (mem_elementPair ra rb s) rd (divMod_lt (Tag.modulus_pos _) _ _)).writeFlags _).finish
  case finv rd ra =>
    exact Holds.of_guarded h hs fun hc =>
      ((hs.writeElement hc (mem_elementOperand 2 ra s) rd (invMod_lt (Tag.modulus_pos _) _)).writeFlags _).finish
  case fpow rd ra rb =>
    exact Holds.of_guarded h hs fun hc =>
      (hs.writeElement (n := 2) hc (by simp) rd (fieldPow_lt (Tag.modulus_pos _) _ _)).finish
  case mmul rd ra rb =>
    exact Holds.of_guarded h hs fun hc =>
      (hs.writeElement hc (mem_elementPair ra rb s) rd (montProduct_lt _ _ _)).finish
  case mto rd ra =>
    exact Holds.of_guarded h hs fun hc =>
      (hs.writeElement hc (mem_elementOperand 2 ra s) rd (toMont_lt (Tag.modulus_pos _) _)).finish
  case mfrom rd ra =>
    exact Holds.of_guarded h hs fun hc => (hs.writeElement hc (mem_elementOperand 2 ra s) rd (fromMont_lt _ _)).finish
  case fsqrt rd ra =>
    exact Holds.of_guarded h hs fun _ => (hs.writeReg rd (element_ok (t := .fp) rfl (sqrtCandidate_lt _))).finish
  case pgetx rd pa => exact Holds.of_guarded h hs fun _ => (hs.writeReg rd (hs.coordinate_ok D pa).1).finish
  case pgety rd pa => exact Holds.of_guarded h hs fun _ => (hs.writeReg rd (hs.coordinate_ok D pa).2).finish
  case pmov pd pa => exact Holds.of_guarded h hs fun _ => (hs.writePoint pd (hs.points pa)).finish
  case pclr pd => exact Holds.of_guarded (cs := []) h hs fun _ => (hs.writePoint pd D.nothing).finish
  case pinf pd => exact Holds.of_guarded (cs := []) h hs fun _ => (hs.writePoint pd D.identity).finish
  case pnew => exact pnew_holds D hs h
  case padd pd pa pb =>
    exact Holds.of_guarded h hs fun _ => (hs.writePoint pd (D.add (hs.points pa) (hs.points pb))).finish
  case pmul pd rk pa => exact Holds.of_guarded h hs fun _ => (hs.writePoint pd (D.mul _ (hs.points pa))).finish
  case pmulg pd rk =>
    have hG := D.mul (s.valOf rk) (D.affine (x := Config.GX) (y := Config.GY) (by decide) (by decide) (by decide))
    rw [show (Point.affine Config.GX Config.GY).toReg.pt = basePoint from basePoint_toReg_pt] at hG
    exact Holds.of_guarded h hs fun _ => (hs.writePoint pd hG).finish
  case pdecomp => exact pdecomp_holds D hs h
  case keyld => exact keyld_holds D hs h
  case keypub pd => exact Holds.of_guarded h hs fun _ => (hs.writePoint pd (D.pub hs.key)).finish
  case keyclr => exact Holds.of_guarded (cs := []) h hs fun _ => (hs.writeKey D.noKey).finish
  case nonce rd rz =>
    exact Holds.of_guarded h hs fun _ => hs.nonceTurn _ fun _ _ hu => (hu.writeReg rd (int_ok _)).finish
  case sign rr rs rz =>
    exact Holds.of_guarded h hs fun _ =>
      hs.nonceTurn _ fun _ _ hu => ((hu.writeReg rr (int_ok _)).writeReg rs (int_ok _)).finish

/-! ### Every step keeps it -/

theorem hostRead_holds (hs : Holds G K s) (off n : Nat) : Holds G K (s.hostRead off n).2 := by
  rcases hostRead_cases s off n with h | ⟨-, h⟩ | ⟨-, w, -, h⟩ <;> rw [h]
  · exact hs.congr rfl rfl rfl
  · exact hs.congr rfl rfl rfl
  · exact hs

/-- The only write of the host that reaches a register makes it an integer (R24). -/
theorem hostWrite_holds (hs : Holds G K s) (off n : Nat) (d : Word) : Holds G K (s.hostWrite off n d) := by
  rcases hostWrite_cases s off n d with h | ⟨-, h⟩ | h | h | ⟨-, h⟩ | h | ⟨-, i, w, -, h⟩ <;> rw [h]
  · exact hs.congr rfl rfl rfl
  · exact hs.congr rfl rfl rfl
  · exact hs.congr rfl rfl rfl
  · obtain ⟨dn, rs, er, dz, ha, -, -⟩ := writeAck_cases s d
    exact ha ▸ hs.congr rfl rfl rfl
  · exact hs.congr rfl rfl rfl
  · exact hs.congr rfl rfl rfl
  · exact hs.writeReg i (int_ok _)

theorem step_holds (D : Demands G K) (hs : Holds G K s) (h : step s = .next t) : Holds G K t := by
  have hp : Holds G K s.popped := hs.congr rfl rfl rfl
  rcases step_cases h with rfl | ⟨_, _, -, -, rfl⟩ | ⟨off, n, -, -, rfl⟩ | ⟨off, n, d, -, -, rfl⟩ | ⟨-, rfl⟩ |
    ⟨-, rfl⟩ | ⟨_, -, rfl⟩ | ⟨-, -, c, -, ⟨e, -, rfl⟩ | ⟨i, -, h⟩⟩
  · exact hp
  · exact hp.congr rfl rfl rfl
  · exact (hostRead_holds hp off n).congr rfl rfl rfl
  · exact hostWrite_holds hp off n d
  · exact (Holds.reset D).congr rfl rfl rfl
  · exact hp.congr rfl rfl rfl
  · exact hp.congr rfl rfl rfl
  · exact hp.raiseError _
  · exact exec_holds D hp h

end

/-! ### Reduced coordinates -/

/-- Both words of a point register are below `P` (the bounds of R27). -/
def Coordinates (r : PointReg) : Prop := r.x.toNat < Config.P ∧ r.y.toNat < Config.P

theorem coordinates_toReg {A : Point} (h : A.Reduced) : Coordinates A.toReg := by
  have hP := Config.P_lt
  cases A with
  | identity => exact ⟨Config.P_pos, Config.P_pos⟩
  | affine x y =>
    obtain ⟨hx, hy⟩ := h
    exact ⟨(toNat_ofNat_of_lt (hx.trans hP)).symm ▸ hx, (toNat_ofNat_of_lt (hy.trans hP)).symm ▸ hy⟩

theorem coordinates_pt {r : PointReg} (h : Coordinates r) : r.pt.Reduced := PointReg.pt_reduced h.1 h.2

theorem coordinates_demands : Demands Coordinates fun k => Coordinates k.pub where
  nothing := ⟨Config.P_pos, Config.P_pos⟩
  identity := coordinates_toReg (A := .identity) trivial
  affine hx hy _ := coordinates_toReg ⟨hx, hy⟩
  coords h := h
  add ha hb := coordinates_toReg (Point.add_reduced (coordinates_pt ha) (coordinates_pt hb))
  mul k _ ha := coordinates_toReg (scalarMul_reduced k (coordinates_pt ha))
  pub h := h
  noKey := ⟨Config.P_pos, Config.P_pos⟩
  loaded _ _ := coordinates_toReg (scalarMul_reduced _ basePoint_reduced)

theorem bounded_iff (s : State) : Bounded s ↔ Holds Coordinates (fun k => Coordinates k.pub) s :=
  ⟨fun ⟨hr, hp, hk⟩ => ⟨hr, hp, hk⟩, fun h => ⟨h.regs, h.points, h.key⟩⟩

/-- Settles O48: the invariant with reduced coordinates, which addition and multiplication keep. -/
theorem stepKeepsValuesReduced : Obligations.StepKeepsValuesReduced := by
  unfold Obligations.StepKeepsValuesReduced
  intro s t hs h
  rw [bounded_iff] at hs ⊢
  exact step_holds coordinates_demands hs h

/-! ### Points on the curve -/

/-- The group elements that a sound register stands for (R27). -/
theorem standsFor_of_ok {r : PointReg} (h : r.Ok) : ∃ Q, r.pt.StandsFor Q := by
  unfold PointReg.pt
  split
  · next ht =>
    obtain ⟨hx, hy, hc⟩ := h.1 ht
    exact Point.standsFor_of_onCurve hx hy hc
  · exact ⟨0, Point.standsFor_identity⟩
  · exact ⟨0, Point.standsFor_identity⟩

/-- A register holds a group element as R27 says. -/
theorem ok_of_standsFor {A : Point} {Q : groupCurve.Point} (h : A.StandsFor Q) : A.toReg.Ok := by
  have hP := Config.P_lt
  cases A with
  | identity => exact ⟨nofun, fun _ => ⟨rfl, rfl⟩⟩
  | affine x y =>
    obtain ⟨hx, hy, hc⟩ := Point.onCurve_of_standsFor h
    refine ⟨fun _ => ?_, fun ht => absurd rfl ht⟩
    simp only [Point.toReg]
    rw [toNat_ofNat_of_lt (hx.trans hP), toNat_ofNat_of_lt (hy.trans hP)]
    exact ⟨hx, hy, hc⟩

theorem nothing_ok : PointReg.nothing.Ok := ⟨nofun, fun _ => ⟨rfl, rfl⟩⟩

theorem coordinates_of_ok {r : PointReg} (h : r.Ok) : Coordinates r := by
  by_cases ht : r.ptag = .affine
  · obtain ⟨hx, hy, -⟩ := h.1 ht
    exact ⟨hx, hy⟩
  · obtain ⟨hx, hy⟩ := h.2 ht
    rw [Coordinates, hx, hy]
    exact ⟨Config.P_pos, Config.P_pos⟩

theorem basePoint_standsFor : ∃ Q, basePoint.StandsFor Q :=
  Point.standsFor_of_onCurve (x := Config.GX) (y := Config.GY) (by decide) (by decide) (by decide)

theorem scalarMul_ok (k : Nat) {A : Point} (h : ∃ Q, A.StandsFor Q) : (scalarMul k A).toReg.Ok := by
  have := primeP
  obtain ⟨Q, hQ⟩ := h
  exact ok_of_standsFor (scalarMul_standsFor k hQ)

theorem add_ok {A B : Point} (hA : ∃ Q, A.StandsFor Q) (hB : ∃ Q, B.StandsFor Q) : (A.add B).toReg.Ok := by
  have := primeP
  obtain ⟨Q, hQ⟩ := hA
  obtain ⟨S, hS⟩ := hB
  exact ok_of_standsFor (Point.add_standsFor hQ hS)

theorem onCurve_demands : Demands PointReg.Ok fun k => k.Ok ∧ k.pub.Ok where
  nothing := nothing_ok
  identity := ok_of_standsFor Point.standsFor_identity
  affine hx hy hc := by
    obtain ⟨Q, hQ⟩ := Point.standsFor_of_onCurve hx hy hc
    exact ok_of_standsFor hQ
  coords := coordinates_of_ok
  add ha hb := add_ok (standsFor_of_ok ha) (standsFor_of_ok hb)
  mul k _ ha := scalarMul_ok k (standsFor_of_ok ha)
  pub h := h.2
  noKey := ⟨⟨nofun, fun _ => ⟨rfl, rfl⟩⟩, nothing_ok⟩
  loaded h1 hN := ⟨⟨fun _ => ⟨⟨h1, hN⟩, rfl⟩, nofun⟩, scalarMul_ok _ basePoint_standsFor⟩

/-- An invalid key slot caches no point (R30), so the clause on the cached point needs no condition. -/
theorem sound_iff (s : State) : Sound s ↔ Holds PointReg.Ok (fun k => k.Ok ∧ k.pub.Ok) s := by
  refine ⟨fun ⟨hr, hp, hk, hpub⟩ => ⟨hr, hp, hk, ?_⟩, fun h => ⟨h.regs, h.points, h.key.1, fun _ => h.key.2⟩⟩
  cases hv : s.key.valid with
  | true => exact hpub hv
  | false => exact (hk.2 hv).2 ▸ nothing_ok

/-- Settles O50: the invariant with points on the curve, which the group law keeps. -/
theorem stepKeepsPointsOnCurve : Obligations.StepKeepsPointsOnCurve := by
  unfold Obligations.StepKeepsPointsOnCurve
  intro s t hs h
  rw [sound_iff] at hs ⊢
  exact step_holds onCurve_demands hs h

end Sys2Proof.Proofs
end

section
/-! How a command ends, what it writes to FLAGS (10_state.md R33), and the relations between the control registers that
every step keeps (R42, R43, R50, R70, R72, R350, R380). -/

namespace Sys2Proof.Proofs

open Sys2Proof Sys2Proof.Machine Sys2Proof.Spec

/-! ### The flags of a command -/

/-- The flags `g` differ from `f` at most in what the row of the command `i` allows (R33). -/
structure FlagsFramed (i : Instr) (f g : FlagBits) : Prop where
  eq : g.eq = f.eq ∨ (∃ a b, i = .icmp a b ∨ i = .feq a b) ∨ ∃ a b, i = .peq a b
  lt : g.lt = f.lt ∨ ∃ a b, i = .icmp a b
  inf : g.inf = f.inf ∨ ∃ a, i = .ptest a
  valid : g.valid = f.valid ∨ ∃ z r q p, i = .verify z r q p
  divz : g.divz = f.divz ∨ (g.divz = true ∧ ((∃ d a b, i = .fdiv d a b) ∨ ∃ d a, i = .finv d a))

theorem FlagsFramed.refl (i : Instr) (f : FlagBits) : FlagsFramed i f f :=
  ⟨.inl rfl, .inl rfl, .inl rfl, .inl rfl, .inl rfl⟩

/-- A sticky flag keeps its value or is set. -/
theorem or_sticky (a b : Bool) : (a || b) = a ∨ (a || b) = true := by cases a <;> simp

/-- `u`, in which the command `i` completes when it is performed in `s`, has the error record of `s`, and its flags but
for the row of `i`. -/
structure Completes (i : Instr) (s u : State) : Prop where
  err : u.err = s.err
  flags : FlagsFramed i s.flags u.flags

theorem completes_writeFlags {i : Instr} {s : State} {f : FlagBits} (h : FlagsFramed i s.flags f) :
    Completes i s (s.writeFlags f) := ⟨rfl, h⟩

/-- How a command ends: in its error entry, in completion, or in another turn of the nonce loop. -/
inductive Ends (i : Instr) (s : State) : State → Prop where
  | error (e : ErrorRecord) : Ends i s (s.raiseError e)
  | completed {u : State} (h : Completes i s u) : Ends i s u.finish
  | waits : Ends i s s
  | ratchets (r : Ratchet) : Ends i s (s.keepRatchet r)

namespace Ends

variable {i : Instr} {s t u : State} {cs : List Check}

theorem of_guarded (hg : guarded cs s u.finish = .next t) (hu : Completes i s u) : Ends i s t := by
  rcases guarded_next hg with ⟨-, rfl⟩ | ⟨e, -, rfl⟩
  · exact .completed hu
  · exact .error e

/-- A command that touches neither the error record nor the flags. -/
theorem of_guarded_kept (hg : guarded cs s u.finish = .next t) (he : u.err = s.err) (hf : u.flags = s.flags) :
    Ends i s t :=
  of_guarded hg ⟨he, hf ▸ .refl i s.flags⟩

theorem of_nonce {z : Val} {use : Val → State → State} (hg : guarded cs s (nonceTurn s z use) = .next t)
    (hu : ∀ k v, ∃ u : State, use k v = u.finish ∧ u.err = v.err ∧ u.flags = v.flags) : Ends i s t := by
  rcases guarded_next hg with ⟨-, rfl⟩ | ⟨e, -, rfl⟩
  · rcases nonceTurn_cases s z use with ⟨-, hn⟩ | ⟨-, -, hn⟩ | ⟨-, -, hn⟩ <;> rw [hn]
    · exact .waits
    · exact .ratchets _
    · obtain ⟨u, hf, herr, hflags⟩ := hu (turnCandidate s.hmac256 s.key.secret z s.work).V
        (s.logRequests (turnCandidate s.hmac256 s.key.secret z s.work).sent)
      rw [hf]
      exact .completed ⟨herr, hflags ▸ .refl i s.flags⟩
  · exact .error e

end Ends

theorem exec_ends {i : Instr} {s t : State} (h : exec i s = .next t) : Ends i s t := by
  cases i
  case nop | ldi | clr | pclr | pinf | keyclr => exact Ends.of_guarded_kept (cs := []) h rfl rfl
  case icmp a b =>
    exact Ends.of_guarded h
      (completes_writeFlags ⟨.inr (.inl ⟨a, b, .inl rfl⟩), .inr ⟨a, b, rfl⟩, .inl rfl, .inl rfl, .inl rfl⟩)
  case feq a b =>
    exact Ends.of_guarded h
      (completes_writeFlags ⟨.inr (.inl ⟨a, b, .inr rfl⟩), .inl rfl, .inl rfl, .inl rfl, .inl rfl⟩)
  case peq a b =>
    exact Ends.of_guarded h (completes_writeFlags ⟨.inr (.inr ⟨a, b, rfl⟩), .inl rfl, .inl rfl, .inl rfl, .inl rfl⟩)
  case ptest a =>
    exact Ends.of_guarded h (completes_writeFlags ⟨.inl rfl, .inl rfl, .inr ⟨a, rfl⟩, .inl rfl, .inl rfl⟩)
  case verify z r q p =>
    exact Ends.of_guarded h (completes_writeFlags ⟨.inl rfl, .inl rfl, .inl rfl, .inr ⟨z, r, q, p, rfl⟩, .inl rfl⟩)
  case fdiv d a b =>
    exact Ends.of_guarded h ⟨rfl, .inl rfl, .inl rfl, .inl rfl, .inl rfl,
      (or_sticky _ _).imp_right fun hz => ⟨hz, .inl ⟨d, a, b, rfl⟩⟩⟩
  case finv d a =>
    exact Ends.of_guarded h ⟨rfl, .inl rfl, .inl rfl, .inl rfl, .inl rfl,
      (or_sticky _ _).imp_right fun hz => ⟨hz, .inr ⟨d, a, rfl⟩⟩⟩
  case nonce | sign => exact Ends.of_nonce h fun _ _ => ⟨_, rfl, rfl, rfl⟩
  all_goals exact Ends.of_guarded_kept h rfl rfl

/-- Error entry writes no flag, and completion only those of the command's row. -/
theorem Ends.flagsFramed {i : Instr} {s t : State} (h : Ends i s t) : FlagsFramed i s.flags t.flags := by
  cases h with
  | error => exact .refl i s.flags
  | completed h => exact h.flags
  | waits => exact .refl i s.flags
  | ratchets => exact .refl i s.flags

/-- A command in error writes no flag: its error entry is the only way from BUSY to ERROR. -/
theorem Ends.flags_of_error {i : Instr} {s t : State} (h : Ends i s t) (ht : t.runState = .error) :
    t.flags = s.flags := by
  cases h with
  | error => rfl
  | completed => cases ht
  | waits => rfl
  | ratchets => rfl

/-- Settles O30: each way a command can end writes the flags of its row, and error entry writes none. -/
theorem flagWriters : Obligations.FlagWriters := by
  unfold Obligations.FlagWriters
  intro i s t h
  have he := exec_ends h
  obtain ⟨eq, lt, inf, valid, divz⟩ := he.flagsFramed
  exact ⟨eq, lt, inf, valid, divz, fun _ => he.flags_of_error⟩

/-! ### The control registers -/

/-- With reset released, the relations speak of the control registers and the hidden state alone. -/
theorem controlled_congr {s t : State} (h : Controlled s) (hline : t.resetLine = false) (hrun : t.runState = s.runState)
    (hpend : t.pending = s.pending) (hlast : t.lastCmd = s.lastCmd) (herr : t.err = s.err) (hdone : t.done = s.done)
    (hwork : t.work = s.work) : Controlled t := by
  obtain ⟨hc, hh, -⟩ := h
  refine ⟨?_, ?_, fun hr => by rw [hline] at hr; cases hr⟩
  · unfold State.ControlOk
    rw [hrun, hpend, hlast, herr, hdone]
    exact hc
  · unfold State.HiddenOk
    rw [hrun, hwork]
    exact hh

/-- What happens outside the block relates nothing inside it (R382). -/
theorem controlled_withEnv {s : State} (h : Controlled s) (e : Env) : Controlled { s with env := e } := by
  obtain ⟨hc, hh, hr⟩ := h
  refine ⟨hc, hh, fun hline => ?_⟩
  conv_lhs => rw [hr hline]

/-- No nonce derivation is in progress outside BUSY (R48). -/
theorem work_zero_of_controlled {s : State} (h : Controlled s) (hb : s.runState ≠ .busy) : s.work = Work.zero := by
  obtain ⟨-, ⟨hzero, hlive⟩, -⟩ := h
  cases hr : s.work.ratcheting with
  | false => exact hzero hr
  | true => exact absurd (hlive hr).1 hb

/-- A state at rest: nothing is pending and the hidden state is zero. -/
theorem controlled_of_rest {t : State} (hline : t.resetLine = false) (hrun : t.runState ≠ .busy) (hp : t.pending = none)
    (he : t.runState = .error → t.err ≠ none ∧ t.done = false) (hi : t.runState ≠ .error → t.err = none)
    (hw : t.work = Work.zero) : Controlled t := by
  refine ⟨⟨fun h => absurd h hrun, fun _ => hp, fun h => (he h).1, hi, fun h => ?_⟩, ⟨fun _ => hw, fun h => ?_⟩,
    fun h => ?_⟩
  · cases hr : t.runState with
    | idle => exact absurd hr h
    | busy => exact absurd hr hrun
    | error => exact (he hr).2
  · rw [hw] at h; cases h
  · rw [hline] at h; cases h

theorem reset_controlled : Controlled State.reset :=
  controlled_of_rest rfl nofun rfl nofun (fun _ => rfl) rfl

theorem assertReset_controlled (s : State) : Controlled s.assertReset := by
  obtain ⟨hc, hh, -⟩ := reset_controlled
  exact ⟨hc, hh, fun _ => rfl⟩

theorem releaseReset_controlled {s : State} (h : Controlled s) : Controlled s.releaseReset :=
  controlled_congr h rfl rfl rfl rfl rfl rfl rfl

/-- Acceptance is made in IDLE, where ERR is clear and the hidden state is zero (R70). -/
theorem accept_controlled {s : State} (h : Controlled s) (hline : s.resetLine = false) (hi : s.runState = .idle)
    (c : Word) : Controlled (s.accept c) := by
  have hw : s.work = Work.zero := work_zero_of_controlled h (by rw [hi]; nofun)
  obtain ⟨⟨-, -, -, hnone, -⟩, -, -⟩ := h
  have he : s.err = none := hnone (by rw [hi]; nofun)
  refine ⟨⟨fun _ => rfl, fun hb => absurd rfl hb, nofun, fun _ => he, fun _ => rfl⟩, ⟨fun _ => hw, fun hr => ?_⟩,
    fun hr => ?_⟩
  · rw [show (s.accept c).work = Work.zero from hw] at hr; cases hr
  · rw [show (s.accept c).resetLine = false from hline] at hr; cases hr

/-- An acknowledgement clears DONE, and ERR with STATE, or leaves them (R44, R358). -/
theorem writeAck_controlled {s : State} (h : Controlled s) (hline : s.resetLine = false) (d : Word) :
    Controlled (s.writeAck d) := by
  obtain ⟨dn, rs, er, dz, ha, hs, hd⟩ := writeAck_cases s d
  rw [ha]
  rcases hs with ⟨rfl, rfl⟩ | ⟨hrun, rfl, rfl⟩
  · obtain ⟨⟨hbusy, hpend, herr, hnone, hdone⟩, hh, -⟩ := h
    refine ⟨⟨hbusy, hpend, herr, hnone, fun hi => ?_⟩, hh, fun hr => ?_⟩
    · rcases hd with rfl | rfl
      · exact hdone hi
      · rfl
    · exact absurd (hline.symm.trans hr) nofun
  · have hw := work_zero_of_controlled h (by rw [hrun]; nofun)
    obtain ⟨⟨-, hpend, -, -, -⟩, -, -⟩ := h
    exact controlled_of_rest hline nofun (hpend (by rw [hrun]; nofun)) nofun (fun _ => rfl) hw

theorem hostWrite_controlled {s : State} (h : Controlled s) (hline : s.resetLine = false) (off n : Nat) (d : Word) :
    Controlled (s.hostWrite off n d) := by
  rcases hostWrite_cases s off n d with hw | ⟨-, hw⟩ | hw | hw | ⟨hi, hw⟩ | hw | ⟨-, i, w, -, hw⟩ <;> rw [hw]
  · exact controlled_congr h hline rfl rfl rfl rfl rfl rfl
  · exact controlled_congr h hline rfl rfl rfl rfl rfl rfl
  · exact controlled_congr h hline rfl rfl rfl rfl rfl rfl
  · exact writeAck_controlled h hline d
  · exact accept_controlled h hline hi d
  · exact controlled_congr h hline rfl rfl rfl rfl rfl rfl
  · exact controlled_congr h hline rfl rfl rfl rfl rfl rfl

theorem hostRead_controlled {s : State} (h : Controlled s) (hline : s.resetLine = false) (off n : Nat) :
    Controlled (s.hostRead off n).2 := by
  rcases hostRead_cases s off n with hr | ⟨-, hr⟩ | ⟨-, w, -, hr⟩ <;> rw [hr]
  · exact controlled_congr h hline rfl rfl rfl rfl rfl rfl
  · exact controlled_congr h hline rfl rfl rfl rfl rfl rfl
  · exact h

/-- Error entry in BUSY, where DONE is 0 as acceptance left it (R350). -/
theorem raiseError_controlled {s : State} (h : Controlled s) (hline : s.resetLine = false) (hb : s.runState = .busy)
    (e : ErrorRecord) : Controlled (s.raiseError e) := by
  obtain ⟨⟨-, -, -, -, hdone⟩, -, -⟩ := h
  exact controlled_of_rest hline nofun rfl (fun _ => ⟨nofun, hdone (by rw [hb]; nofun)⟩) (fun hn => absurd rfl hn) rfl

/-- The live buffers of a turn that goes on stand over a hidden state that is zero elsewhere (R48). -/
theorem keepRatchet_controlled {s : State} (h : Controlled s) (hline : s.resetLine = false) (hb : s.runState = .busy)
    (r : Ratchet) : Controlled (s.keepRatchet r) := by
  obtain ⟨hc, ⟨hzero, hlive⟩, -⟩ := h
  refine ⟨hc, ⟨nofun, fun _ => ⟨hb, ?_⟩⟩, fun hr => absurd (hline.symm.trans hr) nofun⟩
  show ({ s.work with ratcheting := true, bufK := r.K, bufV := r.V } : Work) = Work.live r.K r.V
  cases hr : s.work.ratcheting with
  | false => rw [hzero hr]; rfl
  | true => rw [(hlive hr).2]; rfl

theorem exec_controlled {i : Instr} {s t : State} (h : Controlled s) (hline : s.resetLine = false)
    (hb : s.runState = .busy) (hx : exec i s = .next t) : Controlled t := by
  have hl : t.resetLine = false := (exec_framed hx).resetLine.trans hline
  cases exec_ends hx with
  | error e => exact raiseError_controlled h hline hb e
  | completed hu =>
    obtain ⟨⟨-, -, -, hnone, -⟩, -, -⟩ := h
    exact controlled_of_rest hl nofun rfl nofun (fun _ => hu.err.trans (hnone (by rw [hb]; nofun))) rfl
  | waits => exact h
  | ratchets r => exact keepRatchet_controlled h hline hb r

theorem step_controlled {s t : State} (hs : Controlled s) (h : step s = .next t) : Controlled t := by
  have hp : Controlled s.popped := controlled_withEnv hs _
  rcases step_cases h with rfl | ⟨_, _, -, -, rfl⟩ | ⟨off, n, hl, -, rfl⟩ | ⟨off, n, d, hl, -, rfl⟩ | ⟨-, rfl⟩ |
    ⟨-, rfl⟩ | ⟨_, -, rfl⟩ | ⟨hl, hb, c, -, ⟨e, -, rfl⟩ | ⟨i, -, h⟩⟩
  · exact hp
  · exact controlled_withEnv hp _
  · exact controlled_withEnv (hostRead_controlled hp hl off n) _
  · exact hostWrite_controlled hp hl off n d
  · exact assertReset_controlled _
  · exact releaseReset_controlled hp
  · exact controlled_withEnv hp _
  · exact raiseError_controlled hp hl hb _
  · exact exec_controlled hp hl hb h

/-! ### A step answers a next state -/

theorem step_of_settles {s t : State} (h : nextMove s = .settles t) : step s = .next t := by simp [step, h]

theorem step_of_performs {s t : State} {i : Instr} (h : nextMove s = .performs i t) : step s = exec i t := by
  simp [step, h]

theorem step_of_stops {s : State} {r : Fault} (h : nextMove s = .stops r) : step s = .fault r := by simp [step, h]

/-- The core's turn faults only where nothing is pending in BUSY (log entry 11). -/
theorem coreTurnOf_ne_stops {s : State} (h : s.runState = .busy → s.pending ≠ none) (r : Fault) :
    coreTurnOf s ≠ .stops r := by
  rcases coreTurnOf_cases s with ⟨hc, -⟩ | ⟨-, hb, ⟨hp, -⟩ | ⟨c, e, -, -, hc⟩ | ⟨c, i, -, -, hc⟩⟩
  · rw [hc]; nofun
  · exact absurd hp (h hb)
  · rw [hc]; nofun
  · rw [hc]; nofun

theorem nextMove_ne_stops {s : State} (h : s.runState = .busy → s.pending ≠ none) (r : Fault) :
    nextMove s ≠ .stops r := by
  unfold nextMove
  split
  · exact coreTurnOf_ne_stops h r
  · next m rest _ =>
    cases m with
    | coreTurn => exact coreTurnOf_ne_stops (s := s.withAgenda rest) h r
    | _ => nofun

theorem step_next {s : State} (h : s.runState = .busy → s.pending ≠ none) : ∃ t, step s = .next t := by
  cases hm : nextMove s with
  | settles t => exact ⟨t, step_of_settles hm⟩
  | performs i t =>
    rw [step_of_performs hm]
    exact exec_next i t
  | stops r => exact absurd hm (nextMove_ne_stops h r)

/-- Settles O49: a command is pending in BUSY, so the machine goes on, and every kind of step keeps the relations. -/
theorem stepKeepsControl : Obligations.StepKeepsControl := by
  unfold Obligations.StepKeepsControl
  intro s hs
  have hpend : s.runState = .busy → s.pending ≠ none := fun hb => by
    obtain ⟨⟨hbusy, -⟩, -⟩ := hs
    rw [hbusy hb]
    nofun
  obtain ⟨t, ht⟩ := step_next hpend
  exact ⟨t, ht, step_controlled hs ht⟩

end Sys2Proof.Proofs
end

section
/-! The window's control words and register words, access by access (20_memory.md R61 to R66, 10_state.md R33 to R46),
and what of the state a read can show (R31, R49, R82). -/

namespace Sys2Proof.Proofs

open Sys2Proof Sys2Proof.Machine Sys2Proof.Spec

/-! ### Where an access leads -/

theorem locate_control {off : Nat} (h : off < 0x400) : locate off = controlLocation (off / 4) := by
  simp [locate, h]

/-- The window of `r[i]` holds the words of its value, then the tag (R61, R66). -/
theorem locate_regWord (i : RegIdx) (w : Fin 8) : locate (0x400 + 0x40 * i.val + 4 * w.val) = .regWord i w := by
  have hi := i.isLt
  have hw := w.isLt
  have hreg : (0x400 + 0x40 * i.val + 4 * w.val - 0x400) / 0x40 = i.val := by omega
  have hword : (0x400 + 0x40 * i.val + 4 * w.val - 0x400) % 0x40 / 4 = w.val := by omega
  rw [locate, if_neg (by omega), if_pos (by omega), hreg, hword, regLocation, if_pos hw]
  simp

/-- A well-formed read outside the register windows, which BUSY does not close (R62, R71). -/
theorem hostRead_control (s : State) {off : Nat} {w : Word} (ha : off % 4 = 0) (hoff : off < 0x400)
    (hw : s.readLocation (controlLocation (off / 4)) = some w) : s.hostRead off 4 = (w, s) := by
  have hwf : accessWellFormed off 4 = true := decide_eq_true ⟨rfl, ha, by omega⟩
  have hin : inRegisterWindow off = false := decide_eq_false (by omega)
  rw [← locate_control hoff] at hw
  simp [State.hostRead, hwf, hin, hw]

/-- A well-formed write outside the register windows (R63, R71). -/
theorem hostWrite_control (s : State) {off : Nat} (ha : off % 4 = 0) (hoff : off < 0x400) (d : Word) :
    s.hostWrite off 4 d = s.writeLocation d (controlLocation (off / 4)) := by
  have hwf : accessWellFormed off 4 = true := decide_eq_true ⟨rfl, ha, by omega⟩
  have hin : inRegisterWindow off = false := decide_eq_false (by omega)
  simp [State.hostWrite, hwf, hin, locate_control hoff]

/-- A write to a word of `r[i]` while the register windows are open (R66, R71). -/
theorem hostWrite_regWord {s : State} (hs : s.runState ≠ .busy) (i : RegIdx) (w : Fin 8) (d : Word) :
    s.hostWrite (0x400 + 0x40 * i.val + 4 * w.val) 4 d = s.writeRegWord i w d := by
  have hi := i.isLt
  have hw := w.isLt
  have hwf : accessWellFormed (0x400 + 0x40 * i.val + 4 * w.val) 4 = true :=
    decide_eq_true ⟨rfl, by omega, by omega⟩
  simp [State.hostWrite, hwf, hs, locate_regWord, State.writeLocation]

/-! ### The control words -/

theorem ctrlWord_eq (s : State) : s.ctrlWord = 0#30 ++ bit s.ctrl.ieErr ++ bit s.ctrl.ieDone := by
  unfold State.ctrlWord bit
  cases s.ctrl.ieDone <;> cases s.ctrl.ieErr <;> rfl

theorem statusWord_eq (s : State) : s.statusWord = 0#28 ++ bit s.key.valid ++ bit s.done ++ stateBits s.runState := by
  unfold State.statusWord bit
  cases s.runState <;> cases s.done <;> cases s.key.valid <;> rfl

theorem flagsWord_eq (s : State) : s.flagsWord =
    0#27 ++ bit s.flags.divz ++ bit s.flags.valid ++ bit s.flags.inf ++ bit s.flags.lt ++ bit s.flags.eq := by
  rcases hf : s.flags with ⟨eq, lt, inf, valid, divz⟩
  simp only [State.flagsWord, hf]
  clear hf
  revert eq lt inf valid divz
  decide

theorem faultWord_eq (s : State) :
    s.faultWord = 0#29 ++ bit s.fault.buserr ++ bit s.fault.accv ++ bit s.fault.cmdovr := by
  unfold State.faultWord bit
  cases s.fault.buserr <;> cases s.fault.accv <;> cases s.fault.cmdovr <;> rfl

/-- CODE stands in bits 7:0 and INFO in bits 11:8 (R43). -/
theorem errorRecord_word (k : ErrorKind) (info : BitVec 4) :
    BitVec.ofNat 32 (k.code + 256 * info.toNat) = 0#20 ++ info ++ BitVec.ofNat 8 (errorCode k) := by
  cases k <;> revert info <;> decide

theorem errWord_eq : ∀ s : State, s.errWord = errBits s.err
  | { err := none, .. } => rfl
  | { err := some e, .. } => errorRecord_word e.kind e.info

/-- Settles O33: each control offset is open in every state and shows its word bit by bit. -/
theorem controlReads : Obligations.ControlReads := by
  unfold Obligations.ControlReads
  intro s
  rw [← ctrlWord_eq, ← statusWord_eq, ← flagsWord_eq, ← errWord_eq, ← faultWord_eq]
  have show_at (off : Nat) {w : Word} (hw : s.readLocation (controlLocation (off / 4)) = some w)
      (ha : off % 4 = 0 := by decide) (hoff : off < 0x400 := by decide) := hostRead_control s ha hoff hw
  exact ⟨show_at 0x000 rfl, show_at 0x004 rfl, show_at 0x008 rfl, show_at 0x00C rfl, show_at 0x010 rfl,
    show_at 0x014 rfl, show_at 0x018 rfl, show_at 0x01C rfl, show_at 0x020 rfl, show_at 0x024 rfl⟩

/-! ### Writes -/

/-- The three effects of an acknowledgement at once (R44). -/
theorem writeAck_eq (s : State) (d : Word) : s.writeAck d =
    { s with
      done := s.done && !d.getLsbD 0
      runState := if d.getLsbD 1 = true ∧ s.runState = .error then .idle else s.runState
      err := if d.getLsbD 1 = true ∧ s.runState = .error then none else s.err
      flags := { s.flags with divz := s.flags.divz && !d.getLsbD 2 } } := by
  have hdone : s.ackDone d = { s with done := s.done && !d.getLsbD 0 } := by
    unfold State.ackDone
    cases d.getLsbD 0 <;> simp
  have herror (u : State) : u.ackError d =
      { u with
        runState := if d.getLsbD 1 = true ∧ u.runState = .error then .idle else u.runState
        err := if d.getLsbD 1 = true ∧ u.runState = .error then none else u.err } := by
    unfold State.ackError State.returnFromError
    cases d.getLsbD 1
    · simp
    · by_cases hr : u.runState = .error <;> simp [hr]
  have hdivz (u : State) : u.ackDivz d = { u with flags := { u.flags with divz := u.flags.divz && !d.getLsbD 2 } } := by
    unfold State.ackDivz State.clearDivz State.writeFlags
    cases d.getLsbD 2 <;> simp
  rw [State.writeAck, hdone, herror, hdivz]

/-- Settles O36: the three write-only or writable control offsets, and acceptance by STATE. -/
theorem controlWrites : Obligations.ControlWrites := by
  unfold Obligations.ControlWrites
  intro s d
  have hcmd : s.hostWrite 0x018 4 d = s.writeCmd d := hostWrite_control s (by decide) (by decide) d
  refine ⟨hostWrite_control s (by decide) (by decide) d, ?_, fun hi => ?_, fun hi => ?_⟩
  · rw [← writeAck_eq]
    exact hostWrite_control s (by decide) (by decide) d
  · rw [hcmd, State.writeCmd, if_pos hi]
    rfl
  · rw [hcmd, State.writeCmd, if_neg hi]
    rfl

/-- The field of a word keeps the bits outside it and takes those of the data inside it (R66). -/
theorem setWord_replaced (v : Val) (w : Fin 8) (d : Word) : Replaced v w d (setWord v w d) := by
  have hw := w.isLt
  intro b hb
  have hones : ∀ k, k < 256 → (0xFFFFFFFF#256).getLsbD k = decide (k < 32) := fun k hk => by
    rw [show 0xFFFFFFFF#256 = BitVec.ofNat 256 (2 ^ 32 - 1) from rfl, BitVec.getLsbD_ofNat, Nat.testBit_two_pow_sub_one]
    simp [hk]
  simp only [setWord, BitVec.getLsbD_or, BitVec.getLsbD_and, BitVec.getLsbD_not, BitVec.getLsbD_shiftLeft,
    BitVec.getLsbD_setWidth, hb, hones _ (show b - (224 - 32 * w.val) < 256 by omega)]
  by_cases hlo : b < 224 - 32 * w.val
  · simp [hlo, show ¬ 224 - 32 * w.val ≤ b by omega]
  · by_cases hhi : b < 256 - 32 * w.val
    · simp [hlo, hhi, show 224 - 32 * w.val ≤ b by omega, show b - (224 - 32 * w.val) < 32 by omega,
        show b - (224 - 32 * w.val) < 256 by omega]
    · have hout : d.getLsbD (b - (224 - 32 * w.val)) = false := BitVec.getLsbD_of_ge d _ (by omega)
      simp [hlo, hhi, hout, show ¬ b - (224 - 32 * w.val) < 32 by omega]

/-- Settles O37: an open register window, and the field that `setWord` replaces. -/
theorem registerWrites : Obligations.RegisterWrites := by
  unfold Obligations.RegisterWrites
  intro s i w d hs
  exact ⟨setWord (s.reg i).val w d, setWord_replaced _ w d, hostWrite_regWord hs i w d⟩

/-! ### The secret -/

/-- No location of the window shows the secret, its public point, the hidden state, the pending word or the
environment. -/
theorem readLocation_hidden (s : State) (d : Val) (pub : PointReg) (w : Work) (p : Option Word) (v : Env)
    (l : Location) :
    State.readLocation { s with key := ⟨s.key.valid, d, pub⟩, work := w, pending := p, env := v } l =
      s.readLocation l := by
  cases l <;> rfl

theorem hostRead_hidden (s : State) (d : Val) (pub : PointReg) (w : Work) (p : Option Word) (v : Env) (off n : Nat) :
    (State.hostRead { s with key := ⟨s.key.valid, d, pub⟩, work := w, pending := p, env := v } off n).1 =
      (s.hostRead off n).1 := by
  unfold State.hostRead
  rw [readLocation_hidden]
  split
  · rfl
  · split
    · rfl
    · split <;> rfl

/-- `s` with another secret in its key slot. -/
def withSecret (s : State) (d : Val) : State := { s with key := { s.key with secret := d } }

/-- Two outcomes are next states that differ at most in the secret. -/
def SameButSecret (o o' : Host.Outcome State Fault Refusal) : Prop :=
  ∃ t u, o = .next t ∧ o' = .next u ∧ u = withSecret t u.key.secret

/-- A checked command whose checks do not look at the secret, and whose success differs in the secret alone. -/
theorem sameButSecret_guarded (cs : List Check) (s : State) (d : Val) {u u' : State}
    (h : u' = withSecret u u'.key.secret) : SameButSecret (guarded cs s u) (guarded cs (withSecret s d) u') := by
  cases hc : firstFailing cs with
  | none => exact ⟨u, u', guarded_of_none hc, guarded_of_none hc, h⟩
  | some e => exact ⟨s.raiseError e, (withSecret s d).raiseError e, guarded_of_some hc, guarded_of_some hc, rfl⟩

/-- The commands but NONCE and SIGN read no secret; KEYLD and KEYCLR overwrite it (R31, R270). -/
theorem exec_withSecret {i : Instr} (hi : ¬ DrawsNonce i) (s : State) (d : Val) :
    SameButSecret (exec i s) (exec i (withSecret s d)) := by
  cases i
  case nonce rd rz => exact absurd (.inl ⟨rd, rz, rfl⟩) hi
  case sign rr rs rz => exact absurd (.inr ⟨rr, rs, rz, rfl⟩) hi
  case nop | ldi | clr | pclr | pinf | keyclr => exact sameButSecret_guarded [] s d rfl
  all_goals exact sameButSecret_guarded _ s d rfl

/-- Settles O32: the locations of the window, and the commands one by one. -/
theorem secretStaysHidden : Obligations.SecretStaysHidden := by
  unfold Obligations.SecretStaysHidden
  exact ⟨hostRead_hidden, fun i s d hi => exec_withSecret hi s d⟩

end Sys2Proof.Proofs
end

section
/-! Steps of the machine by the move they make: the core at rest and reset (10_state.md R51, 20_memory.md R72,
70_reset_and_hazards.md R380 to R383), and what no step but acceptance and reset changes (R38, R39, R46, R391). -/

namespace Sys2Proof.Proofs

open Sys2Proof Sys2Proof.Machine Sys2Proof.Spec

/-! ### The core's turn and reset -/

/-- The core is next from an empty agenda and from its turn at the head (log entry 4). -/
theorem nextMove_of_coreTurn {s t : State} (h : CoreTurn s t) : nextMove s = coreTurnOf t := by
  rcases h with ⟨ha, rfl⟩ | ⟨rest, ha, rfl⟩
  · simp [nextMove, ha]
  · simp [nextMove, ha, playMove, State.withAgenda]

/-- The move to the core's turn touches the environment alone. -/
theorem coreTurn_block {s t : State} (h : CoreTurn s t) :
    t.resetLine = s.resetLine ∧ t.runState = s.runState ∧ t.pending = s.pending := by
  rcases h with ⟨-, rfl⟩ | ⟨rest, -, rfl⟩ <;> exact ⟨rfl, rfl, rfl⟩

theorem coreTurnOf_of_rest {s : State} (h : s.resetLine = true ∨ s.runState ≠ .busy) : coreTurnOf s = .settles s := by
  rcases coreTurnOf_cases s with ⟨hc, -⟩ | ⟨hl, hb, -⟩
  · exact hc
  · rcases h with hr | hr
    · exact absurd (hl.symm.trans hr) nofun
    · exact absurd hb hr

theorem coreTurnOf_of_stuck {s : State} (hl : s.resetLine = false) (hb : s.runState = .busy) (hp : s.pending = none) :
    coreTurnOf s = .stops .busyWithoutCommand := by
  simp [coreTurnOf, coreMove, hl, hb, hp]

/-- Settles O42: the core's turn by the state it is taken in. -/
theorem coreAtRest : Obligations.CoreAtRest := by
  unfold Obligations.CoreAtRest
  intro s t h
  obtain ⟨hline, hrun, hpend⟩ := coreTurn_block h
  have hm := nextMove_of_coreTurn h
  rw [← hline, ← hrun, ← hpend]
  exact ⟨fun hr => step_of_settles (hm.trans (coreTurnOf_of_rest hr)),
    fun hl hb hp => step_of_stops (hm.trans (coreTurnOf_of_stuck hl hb hp))⟩

/-- The move that asserts reset is possible in every state (R380). -/
theorem step_of_assertReset {s : State} {rest : List Move} (ha : s.env.agenda = .assertReset :: rest) :
    step s = .next (s.withAgenda rest).assertReset :=
  step_of_settles (by simp [nextMove, ha, playMove])

/-- Settles O43: assertion replaces the block by its reset state. -/
theorem resetFromAnywhere : Obligations.ResetFromAnywhere := by
  unfold Obligations.ResetFromAnywhere
  intro s rest ha
  exact ⟨(s.withAgenda rest).assertReset, step_of_assertReset ha, State.reset_reg, State.reset_point, rfl, rfl, rfl,
    rfl, rfl, rfl, rfl, rfl, rfl, rfl, rfl, rfl⟩

/-- Settles O47: the reset state meets the invariants that every step keeps. -/
theorem resetKeepsTheInvariants : Obligations.ResetKeepsTheInvariants := by
  unfold Obligations.ResetKeepsTheInvariants
  exact ⟨(sound_iff _).mpr (Holds.reset onCurve_demands), (bounded_iff _).mpr (Holds.reset coordinates_demands),
    reset_controlled⟩

/-! ### What only reset takes back -/

/-- Every FAULT bit that is set in `f` is set in `g`. -/
structure FaultKept (f g : FaultBits) : Prop where
  cmdovr : f.cmdovr = true → g.cmdovr = true
  accv : f.accv = true → g.accv = true
  buserr : f.buserr = true → g.buserr = true

theorem FaultKept.refl (f : FaultBits) : FaultKept f f := ⟨id, id, id⟩

theorem FaultKept.of_eq {f g : FaultBits} (h : g = f) : FaultKept f g := h ▸ .refl f

theorem faultKept_busError (s : State) : FaultKept s.fault s.busError.fault := ⟨id, id, fun _ => rfl⟩

theorem faultKept_accessViolation (s : State) : FaultKept s.fault s.accessViolation.fault := ⟨id, fun _ => rfl, id⟩

theorem faultKept_commandOverrun (s : State) : FaultKept s.fault s.commandOverrun.fault := ⟨fun _ => rfl, id, id⟩

theorem hostRead_faultKept (s : State) (off n : Nat) : FaultKept s.fault (s.hostRead off n).2.fault := by
  rcases hostRead_cases s off n with h | ⟨-, h⟩ | ⟨-, w, -, h⟩ <;> rw [h]
  · exact faultKept_busError s
  · exact faultKept_accessViolation s
  · exact .refl _

theorem hostWrite_faultKept (s : State) (off n : Nat) (d : Word) : FaultKept s.fault (s.hostWrite off n d).fault := by
  rcases hostWrite_cases s off n d with h | ⟨-, h⟩ | h | h | ⟨-, h⟩ | h | ⟨-, i, w, -, h⟩ <;> rw [h]
  · exact faultKept_busError s
  · exact faultKept_accessViolation s
  · exact .refl _
  · rw [writeAck_eq]
    exact .refl _
  · exact .refl _
  · exact faultKept_commandOverrun s
  · exact .refl _

/-- Settles O46: every move but the assertion of reset keeps the FAULT bits that are set. -/
theorem faultIsSticky : Obligations.FaultIsSticky := by
  unfold Obligations.FaultIsSticky
  intro s t h hne
  suffices FaultKept s.fault t.fault from ⟨this.cmdovr, this.accv, this.buserr⟩
  rcases step_cases h with rfl | ⟨_, _, -, -, rfl⟩ | ⟨off, n, -, -, rfl⟩ | ⟨off, n, d, -, -, rfl⟩ | ⟨ha, -⟩ | ⟨-, rfl⟩ |
    ⟨_, -, rfl⟩ | ⟨-, -, c, -, ⟨e, -, rfl⟩ | ⟨i, -, hx⟩⟩
  · exact .refl _
  · exact .refl _
  · exact hostRead_faultKept s.popped off n
  · exact hostWrite_faultKept s.popped off n d
  · exact absurd ha hne
  · exact .refl _
  · exact .refl _
  · exact .refl _
  · exact .of_eq (exec_framed hx).fault

/-! ### What only acceptance counts -/

theorem controlLocation_eq_cmd {k : Nat} (h : controlLocation k = .cmd) : k = 6 := by
  unfold controlLocation at h
  split at h
  case h_7 => rfl
  all_goals cases h

theorem regLocation_ne_cmd (i : RegIdx) (k : Nat) : regLocation i k ≠ .cmd := by
  unfold regLocation
  split_ifs <;> nofun

theorem pointLocation_ne_cmd (j : PtIdx) (k : Nat) : pointLocation j k ≠ .cmd := by
  unfold pointLocation
  split_ifs <;> nofun

/-- CMD is the seventh word of the window and no other (R47, R61). -/
theorem word_of_locate_cmd {off : Nat} (h : locate off = .cmd) : off / 4 = 6 := by
  unfold locate at h
  split_ifs at h
  · exact controlLocation_eq_cmd h
  · exact absurd h (regLocation_ne_cmd _ _)
  · exact absurd h (pointLocation_ne_cmd _ _)

/-- A write that is accepted as a command is a well-formed one to CMD; any other leaves SEQ and LASTCMD alone (R38, R39,
R70). -/
theorem hostWrite_counts (s : State) (off n : Nat) (d : Word) :
    ((s.hostWrite off n d).seq = s.seq ∧ (s.hostWrite off n d).lastCmd = s.lastCmd) ∨
    (off = 0x018 ∧ n = 4 ∧ s.runState = .idle ∧ s.hostWrite off n d = s.accept d) := by
  by_cases hwf : accessWellFormed off n = true
  case neg =>
    have hw : s.hostWrite off n d = s.busError := by simp [State.hostWrite, hwf]
    exact .inl (hw ▸ ⟨rfl, rfl⟩)
  obtain ⟨hn, ha, -⟩ := of_decide_eq_true hwf
  by_cases hb : (inRegisterWindow off && decide (s.runState = .busy)) = true
  case pos =>
    have hw : s.hostWrite off n d = s.accessViolation := by simp only [State.hostWrite, hwf, hb]; simp
    exact .inl (hw ▸ ⟨rfl, rfl⟩)
  have hw : s.hostWrite off n d = s.writeLocation d (locate off) := by simp only [State.hostWrite, hwf, hb]; simp
  rw [hw]
  cases hl : locate off
  case cmd =>
    have hoff := word_of_locate_cmd hl
    by_cases hi : s.runState = .idle
    · exact .inr ⟨by omega, hn, hi, by simp [State.writeLocation, State.writeCmd, hi]⟩
    · exact .inl (by simp [State.writeLocation, State.writeCmd, hi, State.commandOverrun])
  case ack => exact .inl (by rw [State.writeLocation, writeAck_eq]; exact ⟨rfl, rfl⟩)
  all_goals exact .inl ⟨rfl, rfl⟩

theorem hostRead_counts (s : State) (off n : Nat) :
    (s.hostRead off n).2.seq = s.seq ∧ (s.hostRead off n).2.lastCmd = s.lastCmd := by
  rcases hostRead_cases s off n with h | ⟨-, h⟩ | ⟨-, w, -, h⟩ <;> rw [h] <;> exact ⟨rfl, rfl⟩

/-- Settles O45: of all moves, a write to CMD in IDLE and the assertion of reset alone reach SEQ and LASTCMD. -/
theorem seqCountsCommands : Obligations.SeqCountsCommands := by
  unfold Obligations.SeqCountsCommands
  intro s t h
  rcases step_cases h with rfl | ⟨_, _, -, -, rfl⟩ | ⟨off, n, -, -, rfl⟩ | ⟨off, n, d, hl, ha, rfl⟩ | ⟨ha, -⟩ |
    ⟨-, rfl⟩ | ⟨_, -, rfl⟩ | ⟨-, -, c, -, ⟨e, -, rfl⟩ | ⟨i, -, hx⟩⟩
  · exact .inl ⟨rfl, rfl⟩
  · exact .inl ⟨rfl, rfl⟩
  · exact .inl (hostRead_counts s.popped off n)
  · rcases hostWrite_counts s.popped off n d with hk | ⟨rfl, rfl, hi, hw⟩
    · exact .inl hk
    · rw [hw]
      exact .inr (.inr ⟨hl, hi, ha, rfl, rfl, rfl⟩)
  · exact .inr (.inl ha)
  · exact .inl ⟨rfl, rfl⟩
  · exact .inl ⟨rfl, rfl⟩
  · exact .inl ⟨rfl, rfl⟩
  · exact .inl ⟨(exec_framed hx).seq, (exec_framed hx).lastCmd⟩

end Sys2Proof.Proofs
end

section
/-! How a command ends (20_memory.md R72, 70_reset_and_hazards.md R401) and what it asks of the HMAC port (R80, R81);
and the accesses of the host that the control words leave: the register windows, the refused accesses and the loading of
an operand (R61 to R67, R71, R106). -/

namespace Sys2Proof.Proofs

open Sys2Proof Sys2Proof.Machine Sys2Proof.Spec

/-! ### The core's turn on a legal word, and the end of a command -/

theorem coreTurnOf_of_legal {s : State} {c : Word} {i : Instr} (hl : s.resetLine = false) (hb : s.runState = .busy)
    (hp : s.pending = some c) (hd : decode c = .ok i) : coreTurnOf s = .performs i s := by
  simp [coreTurnOf, coreMove, hl, hb, hp, hd]

/-- Settles O39: the core's turn on the word, which its place on the agenda leaves as it is. -/
theorem stepRunsTheCommand : Obligations.StepRunsTheCommand := by
  unfold Obligations.StepRunsTheCommand
  rintro s t c i ⟨hl, hb, hp, hturn⟩ hd
  obtain ⟨hline, hrun, hpend⟩ := coreTurn_block hturn
  exact step_of_performs ((nextMove_of_coreTurn hturn).trans
    (coreTurnOf_of_legal (hline.trans hl) (hrun.trans hb) (hpend.trans hp) hd))

theorem drawsNonce_iff (i : Instr) : Instr.drawsNonce i = true ↔ DrawsNonce i := by
  cases i <;> simp [Instr.drawsNonce, DrawsNonce]

/-- Only error entry writes the error record. -/
theorem Ends.err_of_ne_error {i : Instr} {s t : State} (h : Ends i s t) (ht : t.runState ≠ .error) :
    t.err = s.err := by
  cases h with
  | error => exact absurd rfl ht
  | completed hu => exact hu.err
  | waits => rfl
  | ratchets => rfl

/-- Settles O28: error entry and completion; going on is left to the commands that draw a nonce. -/
theorem commandsEnd : Obligations.CommandsEnd := by
  unfold Obligations.CommandsEnd
  intro i s hi
  rcases exec_shape i s with ⟨e, h⟩ | ⟨t, h⟩ | ⟨hn, -⟩
  · exact ⟨_, h, rfl, rfl, .inr ⟨rfl, rfl, nofun⟩⟩
  · exact ⟨_, h, rfl, rfl, .inl ⟨rfl, rfl, (exec_ends h).err_of_ne_error nofun⟩⟩
  · exact absurd ((drawsNonce_iff i).mp hn) hi

/-! ### The requests on the HMAC port -/

@[simp] theorem length_be32 (v : Val) : (be32 v).length = 32 := by simp [be32]

/-- The lengths of the messages that the nonce generator sends (R80, R81). -/
def RequestLength (n : Nat) : Prop := n = 32 ∨ n = 33 ∨ n = 97

/-- Every request that the generator has made has a message of an allowed length. -/
def SentShaped (r : Ratchet) : Prop := ∀ q ∈ r.sent, RequestLength q.msg.length

namespace SentShaped

variable {h : Val → List Byte → Val} {r : Ratchet}

theorem newK (hr : SentShaped r) {msg : List Byte} (hm : RequestLength msg.length) : SentShaped (r.newK h msg) :=
  List.forall_mem_cons.mpr ⟨hm, hr⟩

theorem newV (hr : SentShaped r) : SentShaped (r.newV h) :=
  List.forall_mem_cons.mpr ⟨.inl (length_be32 r.V), hr⟩

theorem seedRound (hr : SentShaped r) (sep : Byte) (secret z' : Val) : SentShaped (r.seedRound h sep secret z') :=
  (hr.newK (.inr (.inr (by simp)))).newV

theorem retry (hr : SentShaped r) : SentShaped (r.retry h) :=
  (hr.newK (.inr (.inl (by simp)))).newV

theorem seedRatchet (secret z : Val) : SentShaped (seedRatchet h secret z) :=
  have initial : SentShaped Ratchet.initial := nofun
  (initial.seedRound _ _ _).seedRound _ _ _

theorem turnStart (secret z : Val) (w : Work) : SentShaped (turnStart h secret z w) := by
  unfold Machine.turnStart
  split
  · nofun
  · exact seedRatchet secret z

theorem turnCandidate (secret z : Val) (w : Work) : SentShaped (turnCandidate h secret z w) :=
  (turnStart secret z w).newV

end SentShaped

/-- From `s` to `t` the command `i` adds requests to the log only if it draws a nonce, and each with a message of an
allowed length (R80, R81). -/
def Requests (i : Instr) (s t : State) : Prop :=
  ∃ rs, t.env.hmac.answered = rs ++ s.env.hmac.answered ∧ (rs ≠ [] → DrawsNonce i) ∧
    ∀ q ∈ rs, RequestLength q.msg.length

namespace Requests

variable {i : Instr} {s t u : State} {cs : List Check}

theorem of_kept (h : t.env.hmac.answered = s.env.hmac.answered) : Requests i s t :=
  ⟨[], h, fun hne => absurd rfl hne, nofun⟩

/-- A checked command makes the requests of its success: error entry makes none. -/
theorem of_guarded (hg : guarded cs s u = .next t) (hu : Requests i s u) : Requests i s t := by
  rcases guarded_next hg with ⟨-, rfl⟩ | ⟨e, -, rfl⟩
  · exact hu
  · exact of_kept rfl

/-- One turn of the nonce loop logs what its ratchet has sent, if the provider answers. -/
theorem nonceTurn (hi : DrawsNonce i) (s : State) (z : Val) {use : Val → State → State}
    (hu : ∀ k v, (use k v).env.hmac.answered = v.env.hmac.answered) : Requests i s (nonceTurn s z use) := by
  rcases nonceTurn_cases s z use with ⟨-, hn⟩ | ⟨-, -, hn⟩ | ⟨-, -, hn⟩ <;> rw [hn]
  · exact of_kept rfl
  · exact ⟨_, rfl, fun _ => hi, (SentShaped.turnCandidate _ _ _).retry⟩
  · exact ⟨_, hu _ _, fun _ => hi, SentShaped.turnCandidate _ _ _⟩

end Requests

theorem exec_requests {i : Instr} {s t : State} (h : exec i s = .next t) : Requests i s t := by
  cases i
  case nonce rd rz => exact .of_guarded h (.nonceTurn (.inl ⟨rd, rz, rfl⟩) s _ fun _ _ => rfl)
  case sign rr rs rz => exact .of_guarded h (.nonceTurn (.inr ⟨rr, rs, rz, rfl⟩) s _ fun _ _ => rfl)
  case nop | ldi | clr | pclr | pinf | keyclr => exact .of_guarded (cs := []) h (.of_kept rfl)
  all_goals exact .of_guarded h (.of_kept rfl)

/-- Settles O31: the requests of a turn of the nonce loop, which NONCE and SIGN alone take. -/
theorem hmacRequestShapes : Obligations.HmacRequestShapes := by
  unfold Obligations.HmacRequestShapes
  exact fun _ _ _ h => exec_requests h

/-! ### The offsets of the register windows -/

/-- TAG follows the eight words of the value (R61, R66). -/
theorem locate_regTag (i : RegIdx) : locate (0x400 + 0x40 * i.val + 0x20) = .regTag i := by
  have hi := i.isLt
  have hreg : (0x400 + 0x40 * i.val + 0x20 - 0x400) / 0x40 = i.val := by omega
  have hword : (0x400 + 0x40 * i.val + 0x20 - 0x400) % 0x40 / 4 = 8 := by omega
  rw [locate, if_neg (by omega), if_pos (by omega), hreg, hword]
  simp [regLocation]

/-- Word `k` of the window of `p[j]` (R61). -/
theorem locate_point (j : PtIdx) {k : Nat} (hk : k < 32) :
    locate (0x800 + 0x80 * j.val + 4 * k) = pointLocation j k := by
  have hj := j.isLt
  have hpoint : (0x800 + 0x80 * j.val + 4 * k - 0x800) / 0x80 = j.val := by omega
  have hword : (0x800 + 0x80 * j.val + 4 * k - 0x800) % 0x80 / 4 = k := by omega
  rw [locate, if_neg (by omega), if_neg (by omega), if_pos (by omega), hpoint, hword]
  simp

theorem locate_ptX (j : PtIdx) (w : Fin 8) : locate (0x800 + 0x80 * j.val + 4 * w.val) = .ptX j w := by
  have hw := w.isLt
  rw [locate_point j (by omega), pointLocation, if_pos hw]
  simp

theorem locate_ptY (j : PtIdx) (w : Fin 8) : locate (0x800 + 0x80 * j.val + 0x20 + 4 * w.val) = .ptY j w := by
  have hw := w.isLt
  rw [show 0x800 + 0x80 * j.val + 0x20 + 4 * w.val = 0x800 + 0x80 * j.val + 4 * (w.val + 8) by omega,
    locate_point j (by omega), pointLocation, if_neg (by omega), if_pos (by omega)]
  simp

theorem locate_ptTag (j : PtIdx) : locate (0x800 + 0x80 * j.val + 0x40) = .ptTag j :=
  locate_point j (k := 16) (by omega)

theorem locate_of_unmapped {off : Nat} (h : Unmapped off) : locate off = .unmapped := by
  unfold locate
  rcases h with h | ⟨hlo, hhi, h⟩ | ⟨hlo, hhi, h⟩ | h
  · -- The last row of `controlLocation` asks that the word number be none of the ten before it.
    rw [if_pos (by omega), controlLocation] <;> omega
  · rw [if_neg (by omega), if_pos hhi, regLocation, if_neg (by omega), if_neg (by omega)]
  · rw [if_neg (by omega), if_neg (by omega), if_pos hhi, pointLocation, if_neg (by omega), if_neg (by omega),
      if_neg (by omega)]
  · rw [if_neg (by omega), if_neg (by omega), if_neg (by omega)]

/-! ### The three stages of an access: its form, the BUSY test, its location (R62, R63, R71) -/

section
variable {s : State} {off n : Nat} {d : Word}

theorem accessWellFormed_iff : accessWellFormed off n = true ↔ WellFormed off n := decide_eq_true_iff

theorem inRegisterWindow_iff : inRegisterWindow off = true ↔ InWindows off := decide_eq_true_iff

/-- The BUSY test passes where no register window is closed (R71). -/
theorem busyTest_of_open (ho : InWindows off → s.runState ≠ .busy) :
    ¬ (inRegisterWindow off && decide (s.runState = .busy)) = true := by
  simpa [inRegisterWindow_iff] using ho

theorem hostRead_illFormed (h : ¬ WellFormed off n) : s.hostRead off n = (0, s.busError) := by
  rw [← accessWellFormed_iff] at h
  simp [State.hostRead, h]

theorem hostWrite_illFormed (h : ¬ WellFormed off n) : s.hostWrite off n d = s.busError := by
  rw [← accessWellFormed_iff] at h
  simp [State.hostWrite, h]

theorem hostRead_closed (h : WellFormed off n) (hw : InWindows off) (hb : s.runState = .busy) :
    s.hostRead off n = (0, s.accessViolation) := by
  rw [← accessWellFormed_iff] at h
  rw [← inRegisterWindow_iff] at hw
  simp [State.hostRead, h, hw, hb]

theorem hostWrite_closed (h : WellFormed off n) (hw : InWindows off) (hb : s.runState = .busy) :
    s.hostWrite off n d = s.accessViolation := by
  rw [← accessWellFormed_iff] at h
  rw [← inRegisterWindow_iff] at hw
  simp [State.hostWrite, h, hw, hb]

theorem hostRead_mapped (h : WellFormed off n) (ho : InWindows off → s.runState ≠ .busy) {w : Word}
    (hl : s.readLocation (locate off) = some w) : s.hostRead off n = (w, s) := by
  rw [← accessWellFormed_iff] at h
  rw [State.hostRead, if_neg (by simp [h]), if_neg (busyTest_of_open ho), hl]

theorem hostRead_unmapped (h : WellFormed off n) (ho : InWindows off → s.runState ≠ .busy)
    (hl : locate off = .unmapped) : s.hostRead off n = (0, s.busError) := by
  rw [← accessWellFormed_iff] at h
  rw [State.hostRead, if_neg (by simp [h]), if_neg (busyTest_of_open ho), hl]
  rfl

theorem hostWrite_open (h : WellFormed off n) (ho : InWindows off → s.runState ≠ .busy) :
    s.hostWrite off n d = s.writeLocation d (locate off) := by
  rw [← accessWellFormed_iff] at h
  rw [State.hostWrite, if_neg (by simp [h]), if_neg (busyTest_of_open ho)]

/-- The read-only offsets lead to the locations whose write is a bus error (R63). -/
theorem writeLocation_of_readOnly (ha : off % 4 = 0) (h : ReadOnly off) :
    s.writeLocation d (locate off) = s.busError := by
  rcases h with h | ⟨hlo, hhi, h⟩ | ⟨hlo, hhi, h⟩
  · simp only [List.mem_cons, List.not_mem_nil, or_false] at h
    rcases h with rfl | rfl | rfl | rfl | rfl | rfl | rfl <;> rfl
  · have hoff : off = 0x400 + 0x40 * ((off - 0x400) / 0x40) + 0x20 := by omega
    rw [hoff, locate_regTag ⟨(off - 0x400) / 0x40, by omega⟩]
    rfl
  · rw [locate, if_neg (by omega), if_neg (by omega), if_pos hhi, pointLocation]
    split_ifs <;> rfl

end

/-- Settles O35: the accesses by the stage that refuses them. -/
theorem refusedAccesses : Obligations.RefusedAccesses := by
  unfold Obligations.RefusedAccesses
  intro s off n d
  refine ⟨fun h => ⟨hostRead_illFormed h, hostWrite_illFormed h⟩,
    fun h hw hb => ⟨hostRead_closed h hw hb, hostWrite_closed h hw hb⟩, fun h ho hu => ?_, fun h ho hr => ?_⟩
  · have hl := locate_of_unmapped hu
    exact ⟨hostRead_unmapped h ho hl, by rw [hostWrite_open h ho, hl]; rfl⟩
  · have ⟨_, ha, _⟩ := h
    exact (hostWrite_open h ho).trans (writeLocation_of_readOnly ha hr)

/-! ### Reading the register windows -/

theorem tag_word (t : Tag) :
    BitVec.ofNat 32 t.code = match t with | .empty => 0 | .int => 1 | .fp => 2 | .fn => 3 := by
  cases t <;> rfl

theorem ptag_word (t : PTag) :
    BitVec.ofNat 32 t.code = match t with | .empty => 0 | .identity => 1 | .affine => 2 := by
  cases t <;> rfl

/-- Settles O34: each offset of an open register window, by the location it leads to. -/
theorem registerReads : Obligations.RegisterReads := by
  unfold Obligations.RegisterReads
  intro s i j w hs
  have hi := i.isLt
  have hj := j.isLt
  have hw := w.isLt
  have shows {off : Nat} {l : Location} {v : Word} (hl : locate off = l) (hv : s.readLocation l = some v)
      (ha : off % 4 = 0) (hoff : off < 0x1000) : s.hostRead off 4 = (v, s) :=
    hostRead_mapped ⟨rfl, ha, hoff⟩ (fun _ => hs) (hl ▸ hv)
  exact ⟨shows (locate_regWord i w) rfl (by omega) (by omega),
    shows (locate_regTag i) (congrArg some (tag_word _)) (by omega) (by omega),
    shows (locate_ptX j w) rfl (by omega) (by omega),
    shows (locate_ptY j w) rfl (by omega) (by omega),
    shows (locate_ptTag j) (congrArg some (ptag_word _)) (by omega) (by omega)⟩

/-! ### Loading an operand -/

/-- `u` with its words `ws` replaced, one after another, by those of `v`. -/
def mergeWords (v : Val) (ws : List (Fin 8)) (u : Val) : Val := ws.foldl (fun t w => setWord t w (getWord v w)) u

/-- Replacing a word of `u` by that of `v` brings the bits of the word to those of `v` and keeps the others. -/
theorem getLsbD_setWord_getWord (u v : Val) (w : Fin 8) {b : Nat} (hb : b < 256) :
    (setWord u w (getWord v w)).getLsbD b =
      if 224 - 32 * w.val ≤ b ∧ b < 256 - 32 * w.val then v.getLsbD b else u.getLsbD b := by
  have hw := w.isLt
  rw [setWord_replaced u w _ b hb]
  refine ite_congr rfl (fun h => ?_) fun _ => rfl
  have hin : b - (224 - 32 * w.val) < 32 := by omega
  have hat : 224 - 32 * w.val + (b - (224 - 32 * w.val)) = b := by omega
  simp [getWord, hin, hat]

/-- A bit that agrees with `v`, or lies in one of the words to come, agrees with `v` in the end. -/
theorem getLsbD_mergeWords {v : Val} {b : Nat} (hb : b < 256) (ws : List (Fin 8)) (u : Val)
    (h : u.getLsbD b = v.getLsbD b ∨ ∃ w ∈ ws, 224 - 32 * w.val ≤ b ∧ b < 256 - 32 * w.val) :
    (mergeWords v ws u).getLsbD b = v.getLsbD b := by
  induction ws generalizing u with
  | nil => simpa [mergeWords] using h
  | cons w ws ih =>
    refine ih (setWord u w (getWord v w)) ?_
    rw [getLsbD_setWord_getWord u v w hb]
    by_cases hin : 224 - 32 * w.val ≤ b ∧ b < 256 - 32 * w.val
    · exact .inl (if_pos hin)
    · rw [if_neg hin]
      exact h.imp_right fun hc => (List.or_exists_of_exists_mem_cons hc).resolve_left hin

/-- The eight words are all of the integer. -/
theorem mergeWords_finRange (v u : Val) : mergeWords v (List.finRange 8) u = v := by
  refine BitVec.eq_of_getLsbD_eq fun b hb => getLsbD_mergeWords hb _ u (.inr ?_)
  exact ⟨⟨7 - b / 32, by omega⟩, List.mem_finRange _, by simp only; omega⟩

/-- Once the tag is INT, writes of words of `v` change the value alone. -/
theorem foldl_hostWrite_regWord {s : State} (hs : s.runState ≠ .busy) (i : RegIdx) (v : Val) (ws : List (Fin 8))
    (u : Val) :
    ws.foldl (fun t w => t.hostWrite (0x400 + 0x40 * i.val + 4 * w.val) 4 (getWord v w)) (s.writeReg i ⟨.int, u⟩) =
      s.writeReg i ⟨.int, mergeWords v ws u⟩ := by
  induction ws generalizing u with
  | nil => rfl
  | cons w ws ih =>
    have hstep : (s.writeReg i ⟨.int, u⟩).hostWrite (0x400 + 0x40 * i.val + 4 * w.val) 4 (getWord v w) =
        s.writeReg i ⟨.int, setWord u w (getWord v w)⟩ := by
      rw [hostWrite_regWord (show (s.writeReg i ⟨.int, u⟩).runState ≠ .busy from hs), State.writeRegWord,
        State.reg_writeReg_same]
      simp [State.writeReg]
    rw [List.foldl_cons, hstep]
    exact ih _

/-- Settles O38: the first write makes the tag INT, and the eight words together are the integer. -/
theorem operandLoad : Obligations.OperandLoad := by
  unfold Obligations.OperandLoad
  intro s i v hs
  have hfirst : s.hostWrite (0x400 + 0x40 * i.val + 4 * (0 : Fin 8).val) 4 (getWord v 0) =
      s.writeReg i ⟨.int, setWord (s.reg i).val 0 (getWord v 0)⟩ := hostWrite_regWord hs i 0 _
  calc loadOperand s i v
      = ((List.finRange 7).map Fin.succ).foldl
          (fun t w => t.hostWrite (0x400 + 0x40 * i.val + 4 * w.val) 4 (getWord v w))
          (s.writeReg i ⟨.int, setWord (s.reg i).val 0 (getWord v 0)⟩) := by
        rw [← hfirst, loadOperand, List.finRange_succ, List.foldl_cons]
        rfl
    _ = s.writeReg i ⟨.int, mergeWords v (List.finRange 8) (s.reg i).val⟩ := by
        rw [foldl_hostWrite_regWord hs, List.finRange_succ]
        rfl
    _ = s.writeReg i ⟨.int, v⟩ := by rw [mergeWords_finRange]

end Sys2Proof.Proofs
end

section
/-! The encoding (30_encoding.md R90 to R100): the decoder accepts exactly the words of the legal commands. Each format
(R94) accepts a word if and only if its fields are operands and all its other bits are 0; the opcode map joins them. -/

namespace Sys2Proof.Proofs

open Sys2Proof Sys2Proof.Machine Sys2Proof.Spec

-- One declaration after another, as in the model's tests: each thread of the elaborator reserves a stack of its own, and
-- the text before this section already comes near the memory limit of the check.
set_option Elab.async false

/-! ### The tests of the decoder and the fields they leave (R91 to R95) -/

section
variable {c : Word} {hi lo : Nat} {i j : Instr}

@[simp] theorem unusedBits_bind_eq_ok {x : Except DecodeError Instr} :
    (unusedBits c hi lo >>= fun _ => x) = .ok i ↔ bits c hi lo = 0 ∧ x = .ok i := by
  unfold unusedBits
  split <;> simp [*, bind, Except.bind]

@[simp] theorem ptField_bind_eq_ok {f : PtIdx → Except DecodeError Instr} :
    (ptField c lo >>= f) = .ok i ↔ bits c (lo + 3) lo < 8 ∧ f (Fin.ofNat 8 (bits c (lo + 3) lo)) = .ok i := by
  unfold ptField
  split <;> simp [*, bind, Except.bind]

@[simp] theorem pure_eq_ok : (pure i : Except DecodeError Instr) = .ok j ↔ i = j := by simp [pure, Except.pure]

theorem bits_lt (c : Word) (hi lo : Nat) : bits c hi lo < 2 ^ (hi + 1 - lo) := Nat.mod_lt _ (Nat.two_pow_pos _)

/-- Every four-bit field is the number of a value register (R92). -/
@[simp] theorem bits_eq_reg {r : RegIdx} (h : hi = lo + 3) : bits c hi lo = r.val ↔ regField c lo = r := by
  subst h
  have hlt : bits c (lo + 3) lo < 16 := by simpa [show lo + 3 + 1 - lo = 4 by omega] using bits_lt c (lo + 3) lo
  rw [Fin.ext_iff, regField, Fin.val_ofNat, Nat.mod_eq_of_lt hlt]

/-- A field is the number of a point register if its top bit is 0 (R93). -/
@[simp] theorem bits_eq_pt {p : PtIdx} :
    bits c hi lo = p.val ↔ bits c hi lo < 8 ∧ Fin.ofNat 8 (bits c hi lo) = p := by
  rw [Fin.ext_iff, Fin.val_ofNat]
  omega

@[simp] theorem bits_eq_fieldSel {m : FieldSel} : bits c 0 0 = m.bit ↔ fieldSelBit c = m := by
  have hlt := bits_lt c 0 0
  cases m <;> simp [fieldSelBit, FieldSel.bit]
  omega

@[simp] theorem bits_eq_parity {odd : Bool} : bits c 0 0 = odd.toNat ↔ parityBit c = odd := by
  have hlt := bits_lt c 0 0
  cases odd <;> simp [parityBit]
  omega

/-- A run of `n` bits is an immediate of that width (R95). -/
@[simp] theorem bits_eq_imm {n : Nat} {v : BitVec n} (h : hi + 1 - lo = n) :
    bits c hi lo = v.toNat ↔ BitVec.ofNat n (bits c hi lo) = v := by
  have hlt := bits_lt c hi lo
  rw [h] at hlt
  rw [← BitVec.toNat_inj, BitVec.toNat_ofNat, Nat.mod_eq_of_lt hlt]

end

/-! ### The words with given fields (R91, R94) -/

section
variable {c : Word} {op f1 f2 f3 f4 imm : Nat}

theorem packWord_eq_iff (hop : bits c 31 24 = op) (h1 : f1 < 16) (h2 : f2 < 16) (h3 : f3 < 16) (h4 : f4 < 16)
    (himm : imm < 256) :
    packWord op f1 f2 f3 f4 imm = c ↔
      bits c 23 20 = f1 ∧ bits c 19 16 = f2 ∧ bits c 15 12 = f3 ∧ bits c 11 8 = f4 ∧ bits c 7 0 = imm := by
  have hc := c.isLt
  simp only [bits] at *
  rw [← BitVec.toNat_inj, Laws.TableRow.packWord_toNat (by omega)]
  omega

/-- Format RI, whose immediate takes four fields. -/
theorem packWord_imm16_eq_iff (hop : bits c 31 24 = op) (h1 : f1 < 16) (himm : imm < 2 ^ 16) :
    packWord op f1 0 0 0 imm = c ↔ bits c 23 20 = f1 ∧ bits c 19 16 = 0 ∧ bits c 15 0 = imm := by
  have hc := c.isLt
  simp only [bits] at *
  rw [← BitVec.toNat_inj, Laws.TableRow.packWord_toNat (by omega)]
  omega

/-- Format R2M, whose immediate is bit 0. -/
theorem packWord_bit_eq_iff (hop : bits c 31 24 = op) (himm : imm < 2) (h1 : f1 < 16) (h2 : f2 < 16) :
    packWord op f1 f2 0 0 imm = c ↔
      bits c 23 20 = f1 ∧ bits c 19 16 = f2 ∧ bits c 15 1 = 0 ∧ bits c 0 0 = imm := by
  have hc := c.isLt
  simp only [bits] at *
  rw [← BitVec.toNat_inj, Laws.TableRow.packWord_toNat (by omega)]
  omega

theorem bits_packWord_opcode (hop : op < 2 ^ 8)
    (hf : f1 * 2 ^ 20 + f2 * 2 ^ 16 + f3 * 2 ^ 12 + f4 * 2 ^ 8 + imm < 2 ^ 24) :
    bits (packWord op f1 f2 f3 f4 imm) 31 24 = op := by
  simp only [bits, packWord, BitVec.toNat_ofNat]
  omega

/-- The unused bits of a format are fields that hold 0. -/
theorem unused_fields (c : Word) :
    (bits c 23 0 = 0 ↔ bits c 23 20 = 0 ∧ bits c 19 0 = 0) ∧ (bits c 19 0 = 0 ↔ bits c 19 16 = 0 ∧ bits c 15 0 = 0) ∧
    (bits c 15 0 = 0 ↔ bits c 15 12 = 0 ∧ bits c 11 0 = 0) ∧ (bits c 11 0 = 0 ↔ bits c 11 8 = 0 ∧ bits c 7 0 = 0) ∧
    (bits c 19 8 = 0 ↔ bits c 19 16 = 0 ∧ bits c 15 12 = 0 ∧ bits c 11 8 = 0) := by
  simp only [bits]
  omega

end

/-! ### The formats: the words each of them accepts (R94)

On both sides stand the fields of the word: on the left those the format reads or tests, on the right those of the packed
word. Each operand is then the one that its field names, and the rest is that the unused fields are 0. The simp set has no
`bind_pure_comp`, which would hide a test that stands last before the command. -/

section
variable {c : Word} {op : Nat} {i : Instr}

theorem formZ_eq_ok {k : Instr} (hop : bits c 31 24 = op) :
    formZ c k = .ok i ↔ packWord op 0 0 0 0 0 = c ∧ k = i := by
  simp [-bind_pure_comp, formZ, packWord_eq_iff hop, unused_fields, and_assoc]

theorem formR1r_eq_ok {k : RegIdx → Instr} (hop : bits c 31 24 = op) :
    formR1r c k = .ok i ↔ ∃ f1 : RegIdx, packWord op f1 0 0 0 0 = c ∧ k f1 = i := by
  simp (disch := omega) [-bind_pure_comp, formR1r, packWord_eq_iff hop, unused_fields, and_assoc]

theorem formR1p_eq_ok {k : PtIdx → Instr} (hop : bits c 31 24 = op) :
    formR1p c k = .ok i ↔ ∃ f1 : PtIdx, packWord op f1 0 0 0 0 = c ∧ k f1 = i := by
  simp (disch := omega) [-bind_pure_comp, formR1p, packWord_eq_iff hop, unused_fields, and_assoc, and_left_comm]

theorem formR2rr_eq_ok {k : RegIdx → RegIdx → Instr} (hop : bits c 31 24 = op) :
    formR2rr c k = .ok i ↔ ∃ f1 f2 : RegIdx, packWord op f1 f2 0 0 0 = c ∧ k f1 f2 = i := by
  simp (disch := omega) [-bind_pure_comp, formR2rr, packWord_eq_iff hop, unused_fields, and_assoc]

theorem formR2pp_eq_ok {k : PtIdx → PtIdx → Instr} (hop : bits c 31 24 = op) :
    formR2pp c k = .ok i ↔ ∃ f1 f2 : PtIdx, packWord op f1 f2 0 0 0 = c ∧ k f1 f2 = i := by
  simp (disch := omega) [-bind_pure_comp, formR2pp, packWord_eq_iff hop, unused_fields, and_assoc, and_left_comm]

theorem formR2rp_eq_ok {k : RegIdx → PtIdx → Instr} (hop : bits c 31 24 = op) :
    formR2rp c k = .ok i ↔ ∃ (f1 : RegIdx) (f2 : PtIdx), packWord op f1 f2 0 0 0 = c ∧ k f1 f2 = i := by
  simp (disch := omega) [-bind_pure_comp, formR2rp, packWord_eq_iff hop, unused_fields, and_assoc, and_left_comm]

theorem formR2pr_eq_ok {k : PtIdx → RegIdx → Instr} (hop : bits c 31 24 = op) :
    formR2pr c k = .ok i ↔ ∃ (f1 : PtIdx) (f2 : RegIdx), packWord op f1 f2 0 0 0 = c ∧ k f1 f2 = i := by
  simp (disch := omega) [-bind_pure_comp, formR2pr, packWord_eq_iff hop, unused_fields, and_assoc, and_left_comm]

theorem formR2Mrr_eq_ok {k : RegIdx → RegIdx → FieldSel → Instr} (hop : bits c 31 24 = op) :
    formR2Mrr c k = .ok i ↔ ∃ (f1 f2 : RegIdx) (m : FieldSel), packWord op f1 f2 0 0 m.bit = c ∧ k f1 f2 m = i := by
  simp (disch := omega) [-bind_pure_comp, formR2Mrr, packWord_bit_eq_iff hop (Laws.TableRow.FieldSel.bit_lt _),
    and_assoc, and_left_comm]

theorem formR2Mpr_eq_ok {k : PtIdx → RegIdx → Bool → Instr} (hop : bits c 31 24 = op) :
    formR2Mpr c k = .ok i ↔
      ∃ (f1 : PtIdx) (f2 : RegIdx) (odd : Bool), packWord op f1 f2 0 0 odd.toNat = c ∧ k f1 f2 odd = i := by
  simp (disch := omega) [-bind_pure_comp, formR2Mpr, packWord_bit_eq_iff hop (Bool.toNat_lt _), and_assoc,
    and_left_comm]

theorem formR3rrr_eq_ok {k : RegIdx → RegIdx → RegIdx → Instr} (hop : bits c 31 24 = op) :
    formR3rrr c k = .ok i ↔ ∃ f1 f2 f3 : RegIdx, packWord op f1 f2 f3 0 0 = c ∧ k f1 f2 f3 = i := by
  simp (disch := omega) [-bind_pure_comp, formR3rrr, packWord_eq_iff hop, unused_fields, and_assoc]

theorem formR3prr_eq_ok {k : PtIdx → RegIdx → RegIdx → Instr} (hop : bits c 31 24 = op) :
    formR3prr c k = .ok i ↔
      ∃ (f1 : PtIdx) (f2 f3 : RegIdx), packWord op f1 f2 f3 0 0 = c ∧ k f1 f2 f3 = i := by
  simp (disch := omega) [-bind_pure_comp, formR3prr, packWord_eq_iff hop, unused_fields, and_assoc, and_left_comm]

theorem formR3prp_eq_ok {k : PtIdx → RegIdx → PtIdx → Instr} (hop : bits c 31 24 = op) :
    formR3prp c k = .ok i ↔
      ∃ (f1 : PtIdx) (f2 : RegIdx) (f3 : PtIdx), packWord op f1 f2 f3 0 0 = c ∧ k f1 f2 f3 = i := by
  simp (disch := omega) [-bind_pure_comp, formR3prp, packWord_eq_iff hop, unused_fields, and_assoc, and_left_comm]

theorem formR3ppp_eq_ok {k : PtIdx → PtIdx → PtIdx → Instr} (hop : bits c 31 24 = op) :
    formR3ppp c k = .ok i ↔ ∃ f1 f2 f3 : PtIdx, packWord op f1 f2 f3 0 0 = c ∧ k f1 f2 f3 = i := by
  simp (disch := omega) [-bind_pure_comp, formR3ppp, packWord_eq_iff hop, unused_fields, and_assoc, and_left_comm]

theorem formR4rrrp_eq_ok {k : RegIdx → RegIdx → RegIdx → PtIdx → Instr} (hop : bits c 31 24 = op) :
    formR4rrrp c k = .ok i ↔
      ∃ (f1 f2 f3 : RegIdx) (f4 : PtIdx), packWord op f1 f2 f3 f4 0 = c ∧ k f1 f2 f3 f4 = i := by
  simp (disch := omega) [-bind_pure_comp, formR4rrrp, packWord_eq_iff hop, and_assoc, and_left_comm]

theorem formRI_eq_ok (hop : bits c 31 24 = op) :
    formRI c = .ok i ↔
      ∃ (f1 : RegIdx) (imm : BitVec 16), packWord op f1 0 0 0 imm.toNat = c ∧ .ldi f1 imm = i := by
  simp (disch := omega) [-bind_pure_comp, formRI, packWord_imm16_eq_iff hop]

theorem formRC_eq_ok (hop : bits c 31 24 = op) :
    formRC c = .ok i ↔ ∃ (f1 : RegIdx) (idx : BitVec 8),
      packWord op f1 0 0 0 idx.toNat = c ∧ constIndexLegal idx = true ∧ .ldc f1 idx = i := by
  simp (disch := omega) [-bind_pure_comp, formRC, packWord_eq_iff hop, unused_fields, and_assoc, ite_eq_iff]

theorem formSign_eq_ok (hop : bits c 31 24 = op) :
    formSign c = .ok i ↔ ∃ f1 f2 f3 : RegIdx,
      packWord op f1 f2 f3 0 0 = c ∧ signDestsLegal f1 f2 = true ∧ .sign f1 f2 f3 = i := by
  simp (disch := omega) [-bind_pure_comp, formSign, packWord_eq_iff hop, unused_fields, and_assoc, ite_eq_iff]

end

/-! ### The opcode map (R96, R97, R100) -/

section
variable {c : Word} {i : Instr}

/-- A row of the opcode map is its format with its command; the rows, numbered as the map lists them, are taken by
format. -/
theorem wellFormed_and_encode_of_decode (h : decode c = .ok i) : i.wellFormed = true ∧ encode i = c := by
  unfold decode at h
  split at h
  -- NOP, KEYCLR
  case h_1 hop | h_35 hop =>
    obtain ⟨hc, rfl⟩ := (formZ_eq_ok hop).mp h
    exact ⟨rfl, hc⟩
  -- LDI
  case h_2 hop =>
    obtain ⟨f1, imm, hc, rfl⟩ := (formRI_eq_ok hop).mp h
    exact ⟨rfl, hc⟩
  -- LDC
  case h_3 hop =>
    obtain ⟨f1, idx, hc, hidx, rfl⟩ := (formRC_eq_ok hop).mp h
    exact ⟨hidx, hc⟩
  -- CLR, KEYLD
  case h_5 hop | h_33 hop =>
    obtain ⟨f1, hc, rfl⟩ := (formR1r_eq_ok hop).mp h
    exact ⟨rfl, hc⟩
  -- PCLR, PINF, PTEST, KEYPUB
  case h_7 hop | h_23 hop | h_28 hop | h_34 hop =>
    obtain ⟨f1, hc, rfl⟩ := (formR1p_eq_ok hop).mp h
    exact ⟨rfl, hc⟩
  -- MOV, FINT, ICMP, FINV, FEQ, MTO, MFROM, FSQRT, NONCE
  case h_4 hop | h_9 hop | h_11 hop | h_16 hop | h_18 hop | h_20 hop | h_21 hop | h_31 hop | h_36 hop =>
    obtain ⟨f1, f2, hc, rfl⟩ := (formR2rr_eq_ok hop).mp h
    exact ⟨rfl, hc⟩
  -- PMOV, PEQ
  case h_6 hop | h_27 hop =>
    obtain ⟨f1, f2, hc, rfl⟩ := (formR2pp_eq_ok hop).mp h
    exact ⟨rfl, hc⟩
  -- PGETX, PGETY
  case h_25 hop | h_26 hop =>
    obtain ⟨f1, f2, hc, rfl⟩ := (formR2rp_eq_ok hop).mp h
    exact ⟨rfl, hc⟩
  -- PMULG
  case h_30 hop =>
    obtain ⟨f1, f2, hc, rfl⟩ := (formR2pr_eq_ok hop).mp h
    exact ⟨rfl, hc⟩
  -- FNEW, IRED
  case h_8 hop | h_10 hop =>
    obtain ⟨f1, f2, m, hc, rfl⟩ := (formR2Mrr_eq_ok hop).mp h
    exact ⟨rfl, hc⟩
  -- PDECOMP
  case h_32 hop =>
    obtain ⟨f1, f2, odd, hc, rfl⟩ := (formR2Mpr_eq_ok hop).mp h
    exact ⟨rfl, hc⟩
  -- FADD, FSUB, FMUL, FDIV, FPOW, MMUL
  case h_12 hop | h_13 hop | h_14 hop | h_15 hop | h_17 hop | h_19 hop =>
    obtain ⟨f1, f2, f3, hc, rfl⟩ := (formR3rrr_eq_ok hop).mp h
    exact ⟨rfl, hc⟩
  -- PNEW
  case h_22 hop =>
    obtain ⟨f1, f2, f3, hc, rfl⟩ := (formR3prr_eq_ok hop).mp h
    exact ⟨rfl, hc⟩
  -- PADD
  case h_24 hop =>
    obtain ⟨f1, f2, f3, hc, rfl⟩ := (formR3ppp_eq_ok hop).mp h
    exact ⟨rfl, hc⟩
  -- PMUL
  case h_29 hop =>
    obtain ⟨f1, f2, f3, hc, rfl⟩ := (formR3prp_eq_ok hop).mp h
    exact ⟨rfl, hc⟩
  -- SIGN
  case h_37 hop =>
    obtain ⟨f1, f2, f3, hc, hne, rfl⟩ := (formSign_eq_ok hop).mp h
    exact ⟨hne, hc⟩
  -- VERIFY
  case h_38 hop =>
    obtain ⟨f1, f2, f3, f4, hc, rfl⟩ := (formR4rrrp_eq_ok hop).mp h
    exact ⟨rfl, hc⟩
  -- every other opcode
  case h_39 => cases h

theorem opcode_lt (i : Instr) : i.opcode < 2 ^ 8 := by cases i <;> simp [Instr.opcode]

theorem bits_encode_opcode (i : Instr) : bits (encode i) 31 24 = i.opcode := by
  cases i with
  | fnew f1 f2 m | ired f1 f2 m =>
    have hm := Laws.TableRow.FieldSel.bit_lt m
    exact bits_packWord_opcode (opcode_lt _) (by omega)
  | pdecomp f1 f2 odd =>
    have hodd := odd.toNat_lt
    exact bits_packWord_opcode (opcode_lt _) (by omega)
  | _ => exact bits_packWord_opcode (opcode_lt _) (by omega)

theorem decode_encode (hi : i.wellFormed = true) : decode (encode i) = .ok i := by
  have hop := bits_encode_opcode i
  rw [decode, hop]
  cases i with
  | nop | keyclr => exact (formZ_eq_ok hop).mpr ⟨rfl, rfl⟩
  | ldi rd imm16 => exact (formRI_eq_ok hop).mpr ⟨rd, imm16, rfl, rfl⟩
  | ldc rd idx => exact (formRC_eq_ok hop).mpr ⟨rd, idx, rfl, hi, rfl⟩
  | clr f1 | keyld f1 => exact (formR1r_eq_ok hop).mpr ⟨f1, rfl, rfl⟩
  | pclr f1 | pinf f1 | ptest f1 | keypub f1 => exact (formR1p_eq_ok hop).mpr ⟨f1, rfl, rfl⟩
  | mov f1 f2 | fint f1 f2 | icmp f1 f2 | finv f1 f2 | feq f1 f2 | mto f1 f2 | mfrom f1 f2 | fsqrt f1 f2
  | nonce f1 f2 => exact (formR2rr_eq_ok hop).mpr ⟨f1, f2, rfl, rfl⟩
  | pmov f1 f2 | peq f1 f2 => exact (formR2pp_eq_ok hop).mpr ⟨f1, f2, rfl, rfl⟩
  | pgetx f1 f2 | pgety f1 f2 => exact (formR2rp_eq_ok hop).mpr ⟨f1, f2, rfl, rfl⟩
  | pmulg f1 f2 => exact (formR2pr_eq_ok hop).mpr ⟨f1, f2, rfl, rfl⟩
  | fnew f1 f2 m | ired f1 f2 m => exact (formR2Mrr_eq_ok hop).mpr ⟨f1, f2, m, rfl, rfl⟩
  | pdecomp f1 f2 odd => exact (formR2Mpr_eq_ok hop).mpr ⟨f1, f2, odd, rfl, rfl⟩
  | fadd f1 f2 f3 | fsub f1 f2 f3 | fmul f1 f2 f3 | fdiv f1 f2 f3 | fpow f1 f2 f3 | mmul f1 f2 f3 =>
    exact (formR3rrr_eq_ok hop).mpr ⟨f1, f2, f3, rfl, rfl⟩
  | pnew f1 f2 f3 => exact (formR3prr_eq_ok hop).mpr ⟨f1, f2, f3, rfl, rfl⟩
  | padd f1 f2 f3 => exact (formR3ppp_eq_ok hop).mpr ⟨f1, f2, f3, rfl, rfl⟩
  | pmul f1 f2 f3 => exact (formR3prp_eq_ok hop).mpr ⟨f1, f2, f3, rfl, rfl⟩
  | sign f1 f2 f3 => exact (formSign_eq_ok hop).mpr ⟨f1, f2, f3, rfl, hi, rfl⟩
  | verify f1 f2 f3 f4 => exact (formR4rrrp_eq_ok hop).mpr ⟨f1, f2, f3, f4, rfl, rfl⟩

/-- The decoder accepts exactly the words of the legal commands. -/
theorem decode_eq_ok_iff : decode c = .ok i ↔ i.wellFormed = true ∧ encode i = c :=
  ⟨wellFormed_and_encode_of_decode, fun ⟨hi, hc⟩ => hc ▸ decode_encode hi⟩

end

/-- Settles O2: the word has the opcode of its command, whose format reads its fields back. -/
theorem decodeOfEncode : Obligations.DecodeOfEncode := by
  unfold Obligations.DecodeOfEncode
  exact fun _ => decode_encode

/-- Settles O3: each format accepts only words whose fields are the operands of the command. -/
theorem encodeOfDecode : Obligations.EncodeOfDecode := by
  unfold Obligations.EncodeOfDecode
  exact fun _ _ => wellFormed_and_encode_of_decode

/-! ### The core's turn on a word of no command -/

theorem coreTurnOf_of_illegal {s : State} {c : Word} {e : DecodeError} (hl : s.resetLine = false)
    (hb : s.runState = .busy) (hp : s.pending = some c) (hd : decode c = .error e) :
    coreTurnOf s = .settles (s.raiseError illegalCommand) := by
  simp [coreTurnOf, coreMove, hl, hb, hp, hd]

/-- Settles O40: the decoder refuses the word of no legal command, and the core's turn on a refused word is error
entry. -/
theorem illegalWordsAreErrors : Obligations.IllegalWordsAreErrors := by
  unfold Obligations.IllegalWordsAreErrors
  rintro s t c ⟨hl, hb, hp, hturn⟩ hno
  obtain ⟨hline, hrun, hpend⟩ := coreTurn_block hturn
  cases hd : decode c with
  | ok i =>
    obtain ⟨hi, hc⟩ := wellFormed_and_encode_of_decode hd
    exact absurd hc (hno i hi)
  | error e =>
    exact step_of_settles ((nextMove_of_coreTurn hturn).trans
      (coreTurnOf_of_illegal (hline.trans hl) (hrun.trans hb) (hpend.trans hp) hd))

/-! ### The spec's examples -/

/-- Settles O1: the decoder runs on each of the words. -/
theorem exampleWordsDecode : Obligations.ExampleWordsDecode := by
  unfold Obligations.ExampleWordsDecode
  decide

end Sys2Proof.Proofs
end

section
/-! What performing a command comes to in the spec's own words (60_exceptions.md R343 to R353, 20_memory.md R72): its
word, its checks in their order, and its write. After it the move and convert commands and the comparisons
(40_move_convert.md R120 to R130, 41_field.md R147). -/

namespace Sys2Proof.Proofs

open Sys2Proof Sys2Proof.Machine Sys2Proof.Spec

-- One declaration after another, so that the check of the whole text stays within its memory limit.
set_option Elab.async false

/-! ### The words by their fields (R91, R94) -/

/-- Two fields side by side, as a number. -/
theorem toNat_append_eq_add {m n : Nat} (x : BitVec m) (y : BitVec n) :
    (x ++ y).toNat = x.toNat * 2 ^ n + y.toNat := by
  rw [BitVec.toNat_append, ← Nat.shiftLeft_add_eq_or_of_lt y.isLt, Nat.shiftLeft_eq]

section
variable {op f1 f2 f3 f4 imm : Nat}

theorem word_eq_packWord (hop : op < 256 := by decide) (h1 : f1 < 16 := by omega) (h2 : f2 < 16 := by omega)
    (h3 : f3 < 16 := by omega) (h4 : f4 < 16 := by omega) (himm : imm < 256 := by omega) :
    word op f1 f2 f3 f4 imm = packWord op f1 f2 f3 f4 imm := by
  rw [← BitVec.toNat_inj, Laws.TableRow.packWord_toNat (by omega)]
  simp only [word, toNat_append_eq_add, BitVec.toNat_ofNat]
  omega

theorem wordRI_eq_packWord {imm16 : BitVec 16} (hop : op < 256 := by decide) (h1 : f1 < 16 := by omega) :
    wordRI op f1 imm16 = packWord op f1 0 0 0 imm16.toNat := by
  rw [← BitVec.toNat_inj, Laws.TableRow.packWord_toNat (by omega)]
  simp only [wordRI, toNat_append_eq_add, BitVec.toNat_ofNat]
  omega

theorem bits_packWord_imm (h : imm < 256) : bits (packWord op f1 f2 f3 f4 imm) 7 0 = imm := by
  simp only [bits, packWord, BitVec.toNat_ofNat]
  omega

end

/-! ### The operands and the constants (R13, R14, R36, R95c) -/

theorem num_eq_valOf (s : State) (i : RegIdx) : num s i = s.valOf i := rfl

theorem ite_eq_bit (m : FieldSel) : (if m = .p then 0 else 1) = m.bit := by cases m <;> rfl

theorem tagOfSel_eq_fieldTag (m : FieldSel) : tagOfSel m = fieldTag m := by cases m <;> rfl

theorem modulusOf_eq_modulus (t : Tag) : modulusOf t = t.modulus := by cases t <;> rfl

/-- The digits of R36 are the values of its formulas. -/
theorem constants_getD {n : Nat} (h : n ≤ 11) : constants.getD n 0 = constStore n := by
  have hall : ∀ n < 12, constants.getD n 0 = constStore n := by decide +kernel
  exact hall n (by omega)

/-! ### The checks in order (R346): the first that fails is the error the spec's chain of checks reports -/

section
variable (s : State) (n : BitVec 4) (i : RegIdx) (j : PtIdx) (cs : List Check)

@[simp] theorem firstFailing_regHeld :
    firstFailing (regHeld n i s :: cs) = nonempty s n i (firstFailing cs) := by
  by_cases h : (s.reg i).tag = .empty <;> simp [firstFailing_cons, regHeld, State.tagOf, nonempty, h]

@[simp] theorem firstFailing_pointHeld :
    firstFailing (pointHeld n j s :: cs) = nonemptyPt s n j (firstFailing cs) := by
  by_cases h : (s.point j).ptag = .empty <;> simp [firstFailing_cons, pointHeld, nonemptyPt, h]

@[simp] theorem firstFailing_isInt :
    firstFailing (isInt n i s :: cs) = integer s n i (firstFailing cs) := by
  by_cases h : (s.reg i).tag = .int <;> simp [firstFailing_cons, isInt, State.tagOf, integer, h]

@[simp] theorem firstFailing_isElement :
    firstFailing (isElement n i s :: cs) = element s n i (firstFailing cs) := by
  cases h : (s.reg i).tag <;> simp [firstFailing_cons, isElement, State.tagOf, Tag.isField, element, h]

@[simp] theorem firstFailing_inRange (p : Prop) [Decidable p] :
    firstFailing (inRange n (decide p) :: cs) = require p ⟨.rangeError, n⟩ (firstFailing cs) := by
  by_cases h : p <;> simp [firstFailing_cons, inRange, require, h]

end

theorem firstFailing_legalWord {i : Instr} (hi : i.wellFormed = true) (cs : List Check) :
    firstFailing (legalWord i :: cs) = firstFailing cs := by
  simp [firstFailing_cons, legalWord, hi]

/-! ### Performing a command -/

/-- A legal command whose meaning is a list of checks and a success: its encoding is its one word, the first failing
check is its error, and without one it completes with its write (R72, R105, R350). -/
theorem performs_of_guarded {w : Word} {i : Instr} {s t : State} {cs : List Check} {checks : Option ErrorRecord}
    (hx : exec i s = guarded cs s t.finish) (hw : w = encode i) (hi : i.wellFormed = true)
    (hc : firstFailing cs = checks) : Performs w i s checks t := by
  subst hw hc
  refine ⟨fun c => ?_, fun h => ?_, fun e h => ?_⟩
  · rw [decode_eq_ok_iff, and_iff_right hi, eq_comm]
  · exact hx.trans (guarded_of_none h)
  · exact hx.trans (guarded_of_some h)

/-! ### The move family (R120 to R126, R204, R274) -/

/-- Settles O4: each command is its checks, of which MOV and PMOV alone have one, and its write. -/
theorem moveCommands : Obligations.MoveCommands := by
  unfold Obligations.MoveCommands
  intro s rd ra pd pa imm16
  refine ⟨?nop, ?ldi, ?mov, ?clr, ?pmov, ?pclr, ?pinf, ?keyclr⟩
  case nop | clr | pclr | pinf | keyclr => exact performs_of_guarded (cs := []) rfl word_eq_packWord rfl rfl
  case ldi => exact performs_of_guarded (cs := []) rfl wordRI_eq_packWord rfl rfl
  case mov => exact performs_of_guarded rfl word_eq_packWord rfl (firstFailing_regHeld s 2 ra [])
  case pmov => exact performs_of_guarded rfl word_eq_packWord rfl (firstFailing_pointHeld s 2 pa [])

/-- The decoder refuses LDC with an index that its test refuses (R97). -/
theorem formRC_error {c : Word} (h : constIndexLegal (BitVec.ofNat 8 (bits c 7 0)) = false) :
    ∃ e, formRC c = .error e := by
  unfold formRC
  cases unusedBits c 19 8 with
  | error e => exact ⟨e, rfl⟩
  | ok => exact ⟨.constIndex, by simp [h, bind, Except.bind]⟩

/-- The encoder's word for LDC with an index above 11 is no legal word (R97, R122). -/
theorem decode_encode_ldc_error (rd : RegIdx) {idx : BitVec 8} (h : 12 ≤ idx.toNat) :
    ∃ e, decode (encode (.ldc rd idx)) = .error e := by
  have hop : bits (encode (.ldc rd idx)) 31 24 = 0x02 := bits_encode_opcode _
  have himm : bits (encode (.ldc rd idx)) 7 0 = idx.toNat := bits_packWord_imm idx.isLt
  rw [decode, hop]
  refine formRC_error ?_
  rw [himm, BitVec.ofNat_toNat, BitVec.setWidth_eq, constIndexLegal]
  exact decide_eq_false (by omega)

/-- Settles O5: the digits of the constant store are its formulas, and the decoder tests the index. -/
theorem loadConstant : Obligations.LoadConstant := by
  unfold Obligations.LoadConstant
  intro s rd idx
  have hw : word 0x02 rd 0 0 0 idx.toNat = encode (.ldc rd idx) := word_eq_packWord
  refine ⟨fun h => ?_, fun h => hw ▸ decode_encode_ldc_error rd h⟩
  have hi : (Instr.ldc rd idx).wellFormed = true := decide_eq_true h
  rw [constants_getD h]
  exact performs_of_guarded rfl hw hi (firstFailing_legalWord hi [])

/-! ### The convert family (R127 to R129) -/

/-- Settles O6: FNEW has the range check that IRED makes needless by reducing. -/
theorem conversions : Obligations.Conversions := by
  unfold Obligations.Conversions
  intro s rd ra m
  simp only [num_eq_valOf, ite_eq_bit, tagOfSel_eq_fieldTag, modulusOf_eq_modulus]
  have hm := Laws.TableRow.FieldSel.bit_lt m
  refine ⟨?fnew, ?fint, ?ired⟩
  case fnew => exact performs_of_guarded rfl word_eq_packWord rfl (by simp [intOperand])
  case fint => exact performs_of_guarded rfl word_eq_packWord rfl (by simp [elementOperand])
  case ired => exact performs_of_guarded rfl word_eq_packWord rfl (by simp [intOperand])

/-! ### The comparisons (R130, R147) -/

/-- Two registers hold the same if tag and number are the same (R20). -/
theorem reg_eq_iff (s : State) (i k : RegIdx) :
    s.reg i = s.reg k ↔ (s.reg i).tag = (s.reg k).tag ∧ num s i = num s k := by
  rw [num, num, BitVec.toNat_inj]
  cases s.reg i
  cases s.reg k
  simp

/-- Settles O7: FEQ compares whole registers, which is to compare their tags and numbers. -/
theorem registerComparisons : Obligations.RegisterComparisons := by
  unfold Obligations.RegisterComparisons
  intro s ra rb
  rw [← decide_eq_decide.mpr (reg_eq_iff s rb ra)]
  refine ⟨?icmp, ?feq⟩
  case icmp => exact performs_of_guarded rfl word_eq_packWord rfl (by simp)
  case feq => exact performs_of_guarded rfl word_eq_packWord rfl (by simp [elementOperand])

end Sys2Proof.Proofs
end

section
/-! The field commands (41_field.md R141 to R146, R148) and their laws on the registers (R149, R153). -/

namespace Sys2Proof.Proofs

open Sys2Proof Sys2Proof.Machine Sys2Proof.Spec

-- One declaration after another, so that the check of the whole text stays within its memory limit.
set_option Elab.async false

/-! ### The commands one by one (R141 to R146) -/

@[simp] theorem firstFailing_sameField (s : State) (n : BitVec 4) (i k : RegIdx) (cs : List Check) :
    firstFailing (sameField n i k s :: cs) = sameTag s n i k (firstFailing cs) := by
  by_cases h : (s.reg i).tag = (s.reg k).tag <;> simp [firstFailing_cons, sameField, State.tagOf, sameTag, h]

/-- The common checks of the two-source field commands are those of R148. -/
theorem firstFailing_elementPair (s : State) (ra rb : RegIdx) :
    firstFailing (elementPair ra rb s) = pairChecks s ra rb := by
  simp [elementPair, pairChecks]

/-- Settles O8: the sum, the difference and the product are the model's operations word for word. -/
theorem fieldArithmetic : Obligations.FieldArithmetic := by
  unfold Obligations.FieldArithmetic
  intro s rd ra rb
  simp only [num_eq_valOf, modulusOf_eq_modulus]
  have hc := firstFailing_elementPair s ra rb
  refine ⟨?fadd, ?fsub, ?fmul⟩
  case fadd | fsub | fmul => exact performs_of_guarded rfl word_eq_packWord rfl hc

/-- Settles O9: the sequencer's inverse is the Fermat power, and the flag is written beside the result. -/
theorem fieldDivision : Obligations.FieldDivision := by
  unfold Obligations.FieldDivision
  intro s rd ra rb
  have hinv (a : Nat) := invMod_eq (a := a) (s.reg ra).tag.modulus_pos (s.reg ra).tag.modulus_lt
  simp only [num_eq_valOf, modulusOf_eq_modulus, ← hinv]
  refine ⟨?fdiv, ?finv⟩
  case fdiv => exact performs_of_guarded rfl word_eq_packWord rfl (firstFailing_elementPair s ra rb)
  case finv => exact performs_of_guarded rfl word_eq_packWord rfl (by simp [elementOperand])

/-- The power of FPOW: the exponent is first reduced modulo `m - 1`, which leaves it at most 256 bits (R146). -/
theorem fieldPow_eq (t : Tag) (a e : Nat) : fieldPow t.modulus a e = a ^ (e % (t.modulus - 1)) % t.modulus := by
  have hgt := t.modulus_gt_two
  have hlt := t.modulus_lt
  have he : e % (t.modulus - 1) < t.modulus - 1 := Nat.mod_lt _ (by omega)
  exact powMod_eq t.modulus_pos (by omega)

/-- Settles O10: the sequencer's result is the power with the reduced exponent. -/
theorem fieldPower : Obligations.FieldPower := by
  unfold Obligations.FieldPower
  intro s rd ra rb
  simp only [num_eq_valOf, modulusOf_eq_modulus, ← fieldPow_eq]
  exact performs_of_guarded rfl word_eq_packWord rfl (by simp)

/-! ### The laws of the arithmetic (R149, R153) -/

theorem subMod_addMod {m a : Nat} (ha : a < m) (b : Nat) : subMod m (addMod m a b) b = a := by
  have hm : 0 < m := Nat.zero_lt_of_lt ha
  refine residue_inj (subMod_lt hm _ _) ha ?_
  rw [cast_subMod hm, cast_addMod, add_sub_cancel_right]

/-- A reduced number other than 0 is no zero of the field, so that its inverse undoes it. -/
theorem mulMod_invMod {t : Tag} {a : Nat} (ha : a < t.modulus) (h0 : a ≠ 0) :
    mulMod t.modulus a (invMod t.modulus a) = 1 := by
  have := Fact.mk t.prime_modulus
  have hgt := t.modulus_gt_two
  have hne : (a : ZMod t.modulus) ≠ 0 := fun h => h0 (residue_inj ha t.modulus_pos (by simpa using h))
  refine residue_inj (mulMod_lt t.modulus_pos _ _) (by omega) ?_
  rw [cast_mulMod, cast_invMod, mul_inv_cancel₀ hne, Nat.cast_one]

/-! ### A command that goes through -/

/-- A checked command whose checks pass ends in its success. -/
theorem eq_of_guarded {cs : List Check} {s t u : State} (hc : firstFailing cs = none) (h : guarded cs s t = .next u) :
    u = t := by
  rw [guarded_of_none hc] at h
  exact (Host.Outcome.next.inj h).symm

@[simp] theorem noteDivisor_reg (s : State) (b : Nat) (i : RegIdx) : (s.noteDivisor b).reg i = s.reg i := rfl

@[simp] theorem noteDivisor_flags (s : State) (b : Nat) :
    (s.noteDivisor b).flags = { s.flags with divz := s.flags.divz || decide (b = 0) } := rfl

/-! ### Elements in registers -/

/-- `r[i]` holds the element `v` of the field of `t` (R22, R23). -/
structure HoldsElement (s : State) (i : RegIdx) (t : Tag) (v : Nat) : Prop where
  field : t.isField = true
  lt : v < t.modulus
  reg : s.reg i = tagged t v

theorem holdsElement_of_ok {s : State} {i : RegIdx} (hok : (s.reg i).Ok)
    (ht : (s.reg i).tag = .fp ∨ (s.reg i).tag = .fn) : HoldsElement s i (s.reg i).tag (num s i) where
  field := by rcases ht with h | h <;> rw [h] <;> rfl
  lt := by
    obtain ⟨-, hfp, hfn⟩ := hok
    rcases ht with h | h
    · exact h ▸ hfp h
    · exact h ▸ hfn h
  reg := by simp [tagged, num]

namespace HoldsElement

variable {s u : State} {a b c : RegIdx} {t : Tag} {x y : Nat}

theorem tagOf (h : HoldsElement s a t x) : s.tagOf a = t := by rw [State.tagOf, h.reg, tagged]

theorem tag_ne_empty (h : HoldsElement s a t x) : t ≠ .empty := by
  rintro rfl
  exact absurd h.field (by decide)

theorem valOf (h : HoldsElement s a t x) : s.valOf a = x := by
  rw [State.valOf, h.reg]
  exact toNat_ofNat_of_lt (h.lt.trans t.modulus_lt)

/-- The element is still there in a state that has the same register. -/
theorem congr (h : HoldsElement s a t x) (hu : u.reg a = s.reg a) : HoldsElement u a t x :=
  ⟨h.field, h.lt, hu.trans h.reg⟩

/-- Two elements of one field pass the checks of R148. -/
theorem firstFailing_pair (ha : HoldsElement s a t x) (hb : HoldsElement s b t y) :
    firstFailing (elementPair a b s) = none := by
  simp [firstFailing_eq_none, elementPair, regHeld, isElement, sameField, ha.tagOf, hb.tagOf, ha.field, ha.tag_ne_empty]

/-- One element passes the checks of FINV (R145). -/
theorem firstFailing_single (ha : HoldsElement s a t x) (n : BitVec 4) : firstFailing (elementOperand n a s) = none := by
  simp [firstFailing_eq_none, elementOperand, regHeld, isElement, ha.tagOf, ha.field, ha.tag_ne_empty]

theorem fieldResult_eq (ha : HoldsElement s a t x) (hb : HoldsElement s b t y) (op : Nat → Nat → Nat → Nat) :
    fieldResult op c a b s = s.writeReg c (tagged t (op t.modulus x y)) := by
  rw [fieldResult, ha.tagOf, ha.valOf, hb.valOf]

end HoldsElement

/-! ### What the commands write, on elements of one field -/

section
variable {s u : State} {a b c : RegIdx} {t : Tag} {x y : Nat}

/-- A two-source field command (R148): FADD, FSUB or FMUL, by the operation `op` of the field. -/
theorem pairCommand_eq {op : Nat → Nat → Nat → Nat} (ha : HoldsElement s a t x) (hb : HoldsElement s b t y)
    (h : guarded (elementPair a b s) s (fieldResult op c a b s).finish = .next u) :
    u = (s.writeReg c (tagged t (op t.modulus x y))).finish := by
  rw [← ha.fieldResult_eq hb]
  exact eq_of_guarded (ha.firstFailing_pair hb) h

/-- FADD leaves the sum, an element of the same field, in its destination (R141). -/
theorem holdsElement_fadd (ha : HoldsElement s a t x) (hb : HoldsElement s b t y)
    (h : exec (.fadd c a b) s = .next u) : HoldsElement u c t (addMod t.modulus x y) where
  field := ha.field
  lt := addMod_lt t.modulus_pos x y
  reg := by simp [pairCommand_eq (op := addMod) ha hb h]

theorem fdiv_eq (ha : HoldsElement s a t x) (hb : HoldsElement s b t y) (h : exec (.fdiv c a b) s = .next u) :
    u = ((s.writeReg c (tagged t (divMod t.modulus x y))).noteDivisor y).finish := by
  rw [← ha.fieldResult_eq hb, ← hb.valOf]
  exact eq_of_guarded (ha.firstFailing_pair hb) h

theorem finv_eq (ha : HoldsElement s a t x) (h : exec (.finv c a) s = .next u) :
    u = ((s.writeReg c (tagged t (invMod t.modulus x))).noteDivisor x).finish := by
  rw [← ha.tagOf, ← ha.valOf]
  exact eq_of_guarded (ha.firstFailing_single 2) h

/-- FINV leaves the inverse, an element of the same field, in its destination (R145). -/
theorem holdsElement_finv (ha : HoldsElement s a t x) (h : exec (.finv c a) s = .next u) :
    HoldsElement u c t (invMod t.modulus x) where
  field := ha.field
  lt := invMod_lt t.modulus_pos x
  reg := by simp [finv_eq ha h]

end

/-! ### The laws on the registers -/

section
variable {s t u : State} {a b c d : RegIdx} {f : Tag} {x y : Nat}

/-- FSUB undoes FADD (R149). -/
theorem fsub_undoes_fadd (ha : HoldsElement s a f x) (hb : HoldsElement s b f y) (hcb : c ≠ b)
    (hadd : exec (.fadd c a b) s = .next t) (hsub : exec (.fsub d c b) t = .next u) : u.reg d = s.reg a := by
  have hc := holdsElement_fadd ha hb hadd
  obtain rfl := pairCommand_eq (op := addMod) ha hb hadd
  obtain rfl := pairCommand_eq (op := subMod) hc (hb.congr (by simp [hcb])) hsub
  simp [subMod_addMod ha.lt, ha.reg]

/-- FMUL by FINV gives 1 (R149). -/
theorem fmul_finv (ha : HoldsElement s a f x) (hx : x ≠ 0) (hca : c ≠ a)
    (hinv : exec (.finv c a) s = .next t) (hmul : exec (.fmul d a c) t = .next u) : u.reg d = ⟨f, 1⟩ := by
  have hc := holdsElement_finv ha hinv
  obtain rfl := finv_eq ha hinv
  obtain rfl := pairCommand_eq (op := mulMod) (ha.congr (by simp [hca])) hc hmul
  simp [mulMod_invMod ha.lt hx, tagged]

/-- FDIV is FINV and then FMUL, the flag DIVZ included (R153). -/
theorem fdiv_eq_finv_fmul {v w z : State} (ha : HoldsElement s a f x) (hb : HoldsElement s b f y) (hca : c ≠ a)
    (hdiv : exec (.fdiv d a b) s = .next v) (hinv : exec (.finv c b) s = .next w)
    (hmul : exec (.fmul d a c) w = .next z) : v.reg d = z.reg d ∧ v.flags = z.flags := by
  obtain rfl := fdiv_eq ha hb hdiv
  have hc := holdsElement_finv hb hinv
  obtain rfl := finv_eq hb hinv
  obtain rfl := pairCommand_eq (op := mulMod) (ha.congr (by simp [hca])) hc hmul
  simp [divMod, mulMod]

end

/-- Settles O51: registers that are Ok hold elements, on which each law is one of the field. -/
theorem fieldLaws : Obligations.FieldLaws := by
  unfold Obligations.FieldLaws
  intro s t u a b c d hoka hokb hta htb
  have ha := holdsElement_of_ok hoka hta
  have hb := htb ▸ holdsElement_of_ok hokb (htb ▸ hta)
  refine ⟨?subAdd, ?mulInv, ?div⟩
  case subAdd => exact fsub_undoes_fadd ha hb
  case mulInv => exact fun hca h0 => fmul_finv ha h0 hca
  case div => exact fun v w z hca => fdiv_eq_finv_fmul ha hb hca

end Sys2Proof.Proofs
end

section
/-! The Montgomery family (42_montgomery.md). The product and the forms of R170 as residues of the field, and the commands
MMUL, MTO and MFROM (R174 to R176). -/

namespace Sys2Proof.Proofs

open Sys2Proof Sys2Proof.Machine Sys2Proof.Spec

-- One declaration after another, so that the check of the whole text stays within its memory limit.
set_option Elab.async false

/-! ### The radix and its inverse (R170) -/

section
variable (t : Tag)

theorem radixInv_mul_R_mod : t.radixInv * Config.R % t.modulus = 1 := by cases t <;> decide

theorem cast_radixInv_mul_R : (t.radixInv : ZMod t.modulus) * (Config.R : ZMod t.modulus) = 1 := by
  have h := cast_mod t.modulus (t.radixInv * Config.R)
  rw [radixInv_mul_R_mod, Nat.cast_mul, Nat.cast_one] at h
  exact h.symm

theorem cast_radixSquared : (t.radixSquared : ZMod t.modulus) = (Config.R : ZMod t.modulus) * Config.R := by
  have h : t.radixSquared = Config.R * Config.R % t.modulus := by cases t <;> decide
  rw [h, cast_mod, Nat.cast_mul]

theorem cast_toMont (m a : Nat) : ((toMont m a : Nat) : ZMod m) = a * Config.R := by
  rw [toMont, cast_mod, Nat.cast_mul]

theorem cast_montProduct (a b : Nat) :
    ((montProduct t a b : Nat) : ZMod t.modulus) = a * b * (t.radixInv : ZMod t.modulus) := by
  rw [montProduct, cast_mod, Nat.cast_mul, Nat.cast_mul]

theorem cast_montProduct_mul_R (a b : Nat) :
    ((montProduct t a b : Nat) : ZMod t.modulus) * (Config.R : ZMod t.modulus) = a * b := by
  rw [cast_montProduct, mul_assoc, cast_radixInv_mul_R, mul_one]

/-- The Montgomery product is the residue that the radix takes back to the product. -/
theorem montProduct_mul_R_mod (a b : Nat) : montProduct t a b * Config.R % t.modulus = a * b % t.modulus := by
  have h := cast_montProduct_mul_R t a b
  rwa [← Nat.cast_mul, ← Nat.cast_mul, ZMod.natCast_eq_natCast_iff'] at h

/-- There is no other such residue: the radix is a unit (R170). -/
theorem eq_montProduct_of_cast_mul_R {t : Tag} {x a b : Nat} (hx : x < t.modulus)
    (h : (x : ZMod t.modulus) * (Config.R : ZMod t.modulus) = a * b) : x = montProduct t a b := by
  refine residue_inj hx (montProduct_lt t a b) ?_
  rw [cast_montProduct, ← h, mul_assoc, mul_comm (Config.R : ZMod t.modulus), cast_radixInv_mul_R, mul_one]

theorem fromMont_eq_montProduct (a : Nat) : fromMont t a = montProduct t a 1 := by
  rw [fromMont, montProduct, Nat.mul_one]

theorem fromMont_mul_R_mod (a : Nat) : fromMont t a * Config.R % t.modulus = a % t.modulus := by
  rw [fromMont_eq_montProduct, montProduct_mul_R_mod, Nat.mul_one]

end

/-! ### The commands (R174 to R176) -/

/-- Settles O11: the residues are the model's Montgomery product, of the operand with 1 for MFROM. -/
theorem montgomeryCommands : Obligations.MontgomeryCommands := by
  unfold Obligations.MontgomeryCommands
  intro s rd ra rb
  simp only [num_eq_valOf, modulusOf_eq_modulus]
  refine ⟨⟨_, montProduct_lt _ _ _, montProduct_mul_R_mod _ _ _, ?mmul⟩, ?mto,
    ⟨_, fromMont_lt _ (s.valOf ra), fromMont_mul_R_mod _ _, ?mfrom⟩⟩
  case mmul => exact performs_of_guarded rfl word_eq_packWord rfl (firstFailing_elementPair s ra rb)
  case mto | mfrom => exact performs_of_guarded rfl word_eq_packWord rfl (by simp [elementOperand])

end Sys2Proof.Proofs
end

section
/-! The Montgomery multiplier, the adder and the exponentiation sequencer (42_montgomery.md R172, R173, R177 to R179): each
unit of the datapath gives the value of the command-level operation. -/

namespace Sys2Proof.Proofs

open Sys2Proof Sys2Proof.Machine

-- One declaration after another, so that the check of the whole text stays within its memory limit.
set_option Elab.async false

/-! ### The exact division by a radix that clears the low digit: `R` in R172, `2^w` in R173 -/

/-- `(T + q·m) div r` with the quotient `q` of R172 and R173. -/
def reduceBy (r m m' T : Nat) : Nat := (T + T % r * m' % r * m) / r

theorem redc_eq_subOnce (m m' T : Nat) : redc m m' T = subOnce m (reduceBy Config.R m m' T) := rfl

theorem wordSerialAcc_succ (m m' w a b i : Nat) :
    wordSerialAcc m m' w a b (i + 1) =
      reduceBy (2 ^ w) m m' (wordSerialAcc m m' w a b i + a * (b / 2 ^ (w * i) % 2 ^ w)) := by
  rw [wordSerialAcc, reduceBy, Nat.mul_mod_mod]

section
variable {r m m' : Nat}

/-- The division is exact when `m'` is `-m⁻¹` modulo the radix. -/
theorem reduceBy_mul (h : r ∣ m' * m + 1) (T : Nat) : reduceBy r m m' T * r = T + T % r * m' % r * m := by
  refine Nat.div_mul_cancel ((Nat.modEq_zero_iff_dvd).mp ?_)
  calc T + T % r * m' % r * m
      ≡ T + T * m' * m [MOD r] :=
        (((Nat.mod_modEq _ r).trans ((Nat.mod_modEq T r).mul_right m')).mul_right m).add_left T
    _ = T * (m' * m + 1) := by ring
    _ ≡ 0 [MOD r] := (Nat.modEq_zero_iff_dvd).mpr (h.mul_left T)

/-- It changes the residue by the radix alone. -/
theorem cast_reduceBy_mul (h : r ∣ m' * m + 1) (T : Nat) :
    ((reduceBy r m m' T : Nat) : ZMod m) * (r : ZMod m) = T := by
  rw [← Nat.cast_mul, reduceBy_mul h]
  simp

/-- The bound that leaves one conditional subtraction: `q < r` and `T < m·r + m` (R172, R173). -/
theorem reduceBy_lt {T : Nat} (hr : 0 < r) (h : T < m * r + m) : reduceBy r m m' T < 2 * m := by
  have hq : (T % r * m' % r + 1) * m ≤ r * m := Nat.mul_le_mul_right m (Nat.mod_lt _ hr)
  refine Nat.div_lt_of_lt_mul ?_
  linarith

end

theorem subOnce_eq_mod {m T : Nat} (h : T < 2 * m) : subOnce m T = T % m := by
  unfold subOnce
  split
  next hge => rw [Nat.mod_eq_sub_mod hge, Nat.mod_eq_of_lt (by omega)]
  next hlt => rw [Nat.mod_eq_of_lt (by omega)]

/-! ### The reduction and the product (R172, R177) -/

section
variable (t : Tag)

theorem R_dvd_mPrime_mul_modulus : Config.R ∣ t.mPrime * t.modulus + 1 := by cases t <;> decide

variable {t} {T a b : Nat}

theorem redc_eq_mod (h : T < t.modulus * Config.R) :
    redc t.modulus t.mPrime T = reduceBy Config.R t.modulus t.mPrime T % t.modulus := by
  rw [redc_eq_subOnce, subOnce_eq_mod (reduceBy_lt (by decide) (Nat.lt_add_right _ h))]

theorem redc_lt (h : T < t.modulus * Config.R) : redc t.modulus t.mPrime T < t.modulus := by
  rw [redc_eq_mod h]
  exact Nat.mod_lt _ t.modulus_pos

theorem cast_redc_mul_R (h : T < t.modulus * Config.R) :
    ((redc t.modulus t.mPrime T : Nat) : ZMod t.modulus) * (Config.R : ZMod t.modulus) = T := by
  rw [redc_eq_mod h, cast_mod, cast_reduceBy_mul (R_dvd_mPrime_mul_modulus t)]

theorem redc_mul_R_mod (h : T < t.modulus * Config.R) :
    redc t.modulus t.mPrime T * Config.R % t.modulus = T % t.modulus := by
  have hcast := cast_redc_mul_R h
  rwa [← Nat.cast_mul, ZMod.natCast_eq_natCast_iff'] at hcast

/-- The multiplier gives the product of R170. -/
theorem montMul_eq_montProduct (ha : a < t.modulus) (hb : b < t.modulus) : montMul t a b = montProduct t a b := by
  have hT : a * b < t.modulus * Config.R := Nat.mul_lt_mul'' ha (hb.trans t.modulus_lt)
  refine eq_montProduct_of_cast_mul_R (redc_lt hT) ?_
  rw [montMul, cast_redc_mul_R hT, Nat.cast_mul]

theorem radixSquared_lt (t : Tag) : t.radixSquared < t.modulus := by cases t <;> decide

/-- FMUL as two Montgomery products (R177). -/
theorem mulViaMont_eq_mulMod (ha : a < t.modulus) (hb : b < t.modulus) : mulViaMont t a b = mulMod t.modulus a b := by
  rw [mulViaMont, montMul_eq_montProduct ha hb, montMul_eq_montProduct (montProduct_lt t a b) (radixSquared_lt t)]
  refine (eq_montProduct_of_cast_mul_R (mulMod_lt t.modulus_pos a b) ?_).symm
  rw [cast_mulMod, cast_radixSquared, ← mul_assoc, cast_montProduct_mul_R]

end

/-! ### The adder and the subtractor (R178) -/

section
variable {m a b : Nat}

theorem adderAdd_eq_addMod (ha : a < m) (hb : b < m) : adderAdd m a b = addMod m a b :=
  subOnce_eq_mod (by omega)

theorem adderSub_eq_subMod (ha : a < m) (hb : b < m) : adderSub m a b = subMod m a b := by
  have hm : 0 < m := Nat.zero_lt_of_lt ha
  have hlt : adderSub m a b < m := by
    unfold adderSub
    split <;> omega
  refine residue_inj hlt (subMod_lt hm a b) ?_
  rw [cast_subMod hm]
  unfold adderSub
  split
  next hle => rw [Nat.cast_sub hle]
  next hgt =>
    rw [Nat.cast_sub (by omega)]
    simp

/-- The adder works on Montgomery forms as on plain ones. -/
theorem toMont_addMod (hm : 0 < m) : toMont m (addMod m a b) = addMod m (toMont m a) (toMont m b) := by
  refine residue_inj (toMont_lt hm _) (addMod_lt hm _ _) ?_
  simp only [cast_toMont, cast_addMod, add_mul]

theorem toMont_subMod (hm : 0 < m) : toMont m (subMod m a b) = subMod m (toMont m a) (toMont m b) := by
  refine residue_inj (toMont_lt hm _) (subMod_lt hm _ _) ?_
  simp only [cast_toMont, cast_subMod hm, sub_mul]

end

/-! ### The exponentiation sequencer: the loop of R179 on Montgomery forms, step by step the loop on plain values -/

section
variable (t : Tag)

theorem montMul_toMont (a b : Nat) :
    montMul t (toMont t.modulus a) (toMont t.modulus b) = toMont t.modulus (mulMod t.modulus a b) := by
  rw [montMul_eq_montProduct (toMont_lt t.modulus_pos a) (toMont_lt t.modulus_pos b)]
  refine (eq_montProduct_of_cast_mul_R (toMont_lt t.modulus_pos _) ?_).symm
  simp only [cast_toMont, cast_mulMod]
  ring

theorem montMul_radixSquared {a : Nat} (ha : a < t.modulus) : montMul t a t.radixSquared = toMont t.modulus a := by
  rw [montMul_eq_montProduct ha (radixSquared_lt t)]
  refine (eq_montProduct_of_cast_mul_R (toMont_lt t.modulus_pos a) ?_).symm
  rw [cast_toMont, cast_radixSquared, mul_assoc]

theorem montMul_toMont_one {a : Nat} (ha : a < t.modulus) : montMul t (toMont t.modulus a) 1 = a := by
  have h1 : 1 < t.modulus := Nat.lt_of_succ_lt t.modulus_gt_two
  rw [montMul_eq_montProduct (toMont_lt t.modulus_pos a) h1]
  refine (eq_montProduct_of_cast_mul_R ha ?_).symm
  rw [cast_toMont, Nat.cast_one, mul_one]

theorem montPowLoop_toMont (fuel b e acc : Nat) :
    montPowLoop t fuel (toMont t.modulus b) e (toMont t.modulus acc) =
      toMont t.modulus (powLoop t.modulus fuel b e acc) := by
  induction fuel generalizing b e acc with
  | zero => rfl
  | succ fuel ih =>
    rw [montPowLoop, montMul_toMont, montMul_toMont, ← apply_ite (toMont t.modulus), ih]
    rfl

theorem montPow_eq_powMod {a : Nat} (ha : a < t.modulus) (e : Nat) : montPow t a e = powMod t.modulus a e := by
  have h1 : 1 < t.modulus := Nat.lt_of_succ_lt t.modulus_gt_two
  rw [montPow, montMul_radixSquared t ha, montMul_radixSquared t h1, montPowLoop_toMont, powMod, Nat.mod_eq_of_lt h1]
  exact montMul_toMont_one t (powLoop_lt t.modulus_pos _ _ _ _ h1)

end

/-- Settles O52: each unit gives the value of its command-level operation, and those are the sum, product and power. -/
theorem montgomeryReduction : Obligations.MontgomeryReduction := by
  unfold Obligations.MontgomeryReduction
  intro t
  refine ⟨fun T hT => ⟨redc_lt hT, redc_mul_R_mod hT⟩, fun a b ha hb => ?_⟩
  have hm := t.modulus_pos
  have hTo (x : Nat) := toMont_lt hm x
  refine ⟨mulViaMont_eq_mulMod ha hb, adderAdd_eq_addMod ha hb, ?sub, ?formAdd, ?formSub, fun e he => ?pow⟩
  case sub => rw [adderSub_eq_subMod ha hb, subMod_cast hm]
  case formAdd => rw [adderAdd_eq_addMod ha hb, adderAdd_eq_addMod (hTo a) (hTo b), toMont_addMod hm]
  case formSub => rw [adderSub_eq_subMod ha hb, adderSub_eq_subMod (hTo a) (hTo b), toMont_subMod hm]
  case pow => rw [montPow_eq_powMod t ha, powMod_eq hm he]

/-! ### The word-serial multiplier (R173) -/

section
variable {t : Tag} {w a b : Nat}

/-- The accumulator stays below `2m`, whatever the words of `b` are. -/
theorem wordSerialAcc_lt {m : Nat} (m' : Nat) (ha : a < m) (i : Nat) : wordSerialAcc m m' w a b i < 2 * m := by
  have hw : 0 < 2 ^ w := Nat.two_pow_pos w
  induction i with
  | zero => rw [wordSerialAcc]; omega
  | succ i ih =>
    rw [wordSerialAcc_succ]
    refine reduceBy_lt hw ?_
    have hle : a * (b / 2 ^ (w * i) % 2 ^ w) ≤ m * (b / 2 ^ (w * i) % 2 ^ w) := Nat.mul_le_mul_right _ ha.le
    have hword : m * (b / 2 ^ (w * i) % 2 ^ w + 1) ≤ m * 2 ^ w := Nat.mul_le_mul_left m (Nat.mod_lt _ hw)
    linarith

/-- After `i` rounds it stands for the product with the `i` low words of `b`. -/
theorem cast_wordSerialAcc_mul (hw : w ∣ 256) (i : Nat) :
    ((wordSerialAcc t.modulus t.mPrime w a b i : Nat) : ZMod t.modulus) * ((2 ^ (w * i) : Nat) : ZMod t.modulus) =
      (a * (b % 2 ^ (w * i)) : Nat) := by
  have hdvd : 2 ^ w ∣ t.mPrime * t.modulus + 1 :=
    (Nat.pow_dvd_pow 2 (Nat.le_of_dvd (by decide) hw)).trans (R_dvd_mPrime_mul_modulus t)
  induction i with
  | zero => simp [wordSerialAcc, Nat.mod_one]
  | succ i ih =>
    have hround := cast_reduceBy_mul hdvd (wordSerialAcc t.modulus t.mPrime w a b i + a * (b / 2 ^ (w * i) % 2 ^ w))
    rw [wordSerialAcc_succ, Nat.mul_succ, pow_add, Nat.mod_mul]
    push_cast at ih hround ⊢
    linear_combination ((2 : ZMod t.modulus) ^ (w * i)) * hround + ih

/-- The word-serial multiplier gives the product of R170. -/
theorem wordSerialMul_eq_montProduct (hw : w ∣ 256) (ha : a < t.modulus) (hb : b < t.modulus) :
    wordSerialMul t w a b = montProduct t a b := by
  rw [wordSerialMul, subOnce_eq_mod (wordSerialAcc_lt _ ha _)]
  refine eq_montProduct_of_cast_mul_R (Nat.mod_lt _ t.modulus_pos) ?_
  have h := cast_wordSerialAcc_mul (t := t) (a := a) (b := b) hw (256 / w)
  rw [Nat.mul_div_cancel' hw, Nat.mod_eq_of_lt (hb.trans t.modulus_lt), Nat.cast_mul] at h
  rw [cast_mod]
  exact h

end

/-- Settles O53: both multipliers give the Montgomery product of R170. -/
theorem wordSerialMultiplier : Obligations.WordSerialMultiplier := by
  unfold Obligations.WordSerialMultiplier
  intro t w a b _ hdvd ha hb
  rw [wordSerialMul_eq_montProduct hdvd ha hb, montMul_eq_montProduct ha hb]

end Sys2Proof.Proofs
end

section
/-! The modular inverse engine (42_montgomery.md R180). A register of the engine and the cofactor beside it satisfy the
invariant `x·a ≡ u`; a bound on the odd divisors of the two registers halves in every round, which bounds the rounds. -/

namespace Sys2Proof.Proofs

open Sys2Proof Sys2Proof.Machine

-- One declaration after another, so that the check of the whole text stays within its memory limit.
set_option Elab.async false

/-! ### A register and its cofactor -/

/-- The register holds `u`, its cofactor is `x`, and `x·a ≡ u` modulo `m` (R180). -/
structure Cofactor (m a u x : Nat) : Prop where
  pos : 0 < u
  lt : u < 2 ^ 256
  residue : (x : ZMod m) * a = u

section
variable {t : Tag} {a u x : Nat}

theorem two_ne_zero_modulus (t : Tag) : (2 : ZMod t.modulus) ≠ 0 := by
  intro h
  have hcast : ((2 : Nat) : ZMod t.modulus) = (0 : Nat) := by exact_mod_cast h
  exact absurd (residue_inj t.modulus_gt_two t.modulus_pos hcast) (by decide)

theorem modulus_odd (t : Tag) : t.modulus % 2 = 1 := by cases t <;> decide

/-- Halving modulo an odd `m`: doubled, it is the number again. -/
theorem cast_half_mul_two {m : Nat} (hm : m % 2 = 1) (x : Nat) :
    ((if x % 2 = 0 then x / 2 else (x + m) / 2 : Nat) : ZMod m) * 2 = x := by
  split
  next he => exact_mod_cast congrArg (Nat.cast (R := ZMod m)) (show x / 2 * 2 = x by omega)
  next ho =>
    have h := congrArg (Nat.cast (R := ZMod m)) (show (x + m) / 2 * 2 = x + m by omega)
    push_cast at h
    simpa using h

theorem Cofactor.half (h : Cofactor t.modulus a u x) (he : u % 2 = 0) :
    Cofactor t.modulus a (u / 2) (if x % 2 = 0 then x / 2 else (x + t.modulus) / 2) where
  pos := by have := h.pos; omega
  lt := by have := h.lt; omega
  residue := by
    have := Fact.mk t.prime_modulus
    have hu := congrArg (Nat.cast (R := ZMod t.modulus)) (show u / 2 * 2 = u by omega)
    have hx := cast_half_mul_two (modulus_odd t) x
    rw [Nat.cast_mul, Nat.cast_ofNat] at hu
    refine mul_right_cancel₀ (two_ne_zero_modulus t) ?_
    rw [mul_right_comm, hx, hu, h.residue]

/-- The halving leaves an odd divisor of the register, with its cofactor. -/
theorem halveWhileEven_cofactor {fuel : Nat} (h : Cofactor t.modulus a u x) (hu : u < 2 ^ fuel) :
    (halveWhileEven t.modulus fuel u x).1 % 2 = 1 ∧ (halveWhileEven t.modulus fuel u x).1 ∣ u ∧
      Cofactor t.modulus a (halveWhileEven t.modulus fuel u x).1 (halveWhileEven t.modulus fuel u x).2 := by
  induction fuel generalizing u x with
  | zero => exact absurd hu (by have := h.pos; omega)
  | succ fuel ih =>
    rw [halveWhileEven]
    split
    next he =>
      obtain ⟨hodd, hdvd, hcof⟩ := ih (h.half he) (by omega)
      exact ⟨hodd, hdvd.trans (Nat.div_dvd_of_dvd (Nat.dvd_of_mod_eq_zero he)), hcof⟩
    next ho => exact ⟨by omega, dvd_rfl, h⟩

theorem Cofactor.sub {v y : Nat} (hu : Cofactor t.modulus a u x) (hv : Cofactor t.modulus a v y) (hlt : v < u) :
    Cofactor t.modulus a (u - v) (subMod t.modulus x y) where
  pos := by omega
  lt := by have := hu.lt; omega
  residue := by rw [cast_subMod t.modulus_pos, sub_mul, hu.residue, hv.residue, Nat.cast_sub hlt.le]

end

/-! ### The two registers of the loop -/

/-- The invariant with `fuel` rounds to go: coprime registers with their cofactors, and a product of odd divisors below
`2^fuel`. -/
structure BinInvInvariant (m a fuel u v x y : Nat) : Prop where
  left : Cofactor m a u x
  right : Cofactor m a v y
  coprime : u.Coprime v
  bound : ∀ p q, p % 2 = 1 → q % 2 = 1 → p ∣ u → q ∣ v → p * q < 2 ^ fuel

section
variable {t : Tag} {a fuel u v x y : Nat}

theorem BinInvInvariant.symm {m : Nat} (h : BinInvInvariant m a fuel u v x y) : BinInvInvariant m a fuel v u y x where
  left := h.right
  right := h.left
  coprime := h.coprime.symm
  bound p q hp hq hpv hqu := Nat.mul_comm q p ▸ h.bound q p hq hp hqu hpv

/-- An odd divisor of the difference of two odd numbers is at most half of it. -/
theorem two_mul_le_of_odd_dvd_sub {p : Nat} (hu : u % 2 = 1) (hv : v % 2 = 1) (hlt : v < u) (hp : p % 2 = 1)
    (hdvd : p ∣ u - v) : 2 * p ≤ u - v := by
  have hcop : Nat.Coprime 2 p := Nat.coprime_two_left.mpr (Nat.odd_iff.mpr hp)
  exact Nat.le_of_dvd (by omega) (hcop.mul_dvd_of_dvd_of_dvd (by omega) hdvd)

/-- Halved registers: the subtraction takes one round of the bound. -/
theorem BinInvInvariant.sub (h : BinInvInvariant t.modulus a (fuel + 1) u v x y) (hu : u % 2 = 1) (hv : v % 2 = 1)
    (hlt : v < u) : BinInvInvariant t.modulus a fuel (u - v) v (subMod t.modulus x y) y where
  left := h.left.sub h.right hlt
  right := h.right
  coprime := (Nat.coprime_sub_self_left hlt.le).mpr h.coprime
  bound p q hp _ hpd hqd := by
    have hprod : 2 * p * q ≤ u * v :=
      Nat.mul_le_mul ((two_mul_le_of_odd_dvd_sub hu hv hlt hp hpd).trans (Nat.sub_le u v))
        (Nat.le_of_dvd h.right.pos hqd)
    have hb := h.bound u v hu hv dvd_rfl dvd_rfl
    rw [pow_succ] at hb
    linarith

/-- The halving of both registers keeps the invariant and leaves them odd. -/
theorem BinInvInvariant.halve (h : BinInvInvariant t.modulus a fuel u v x y) :
    (halveWhileEven t.modulus 256 u x).1 % 2 = 1 ∧ (halveWhileEven t.modulus 256 v y).1 % 2 = 1 ∧
      BinInvInvariant t.modulus a fuel (halveWhileEven t.modulus 256 u x).1 (halveWhileEven t.modulus 256 v y).1
        (halveWhileEven t.modulus 256 u x).2 (halveWhileEven t.modulus 256 v y).2 := by
  obtain ⟨hu, hud, hleft⟩ := halveWhileEven_cofactor h.left h.left.lt
  obtain ⟨hv, hvd, hright⟩ := halveWhileEven_cofactor h.right h.right.lt
  refine ⟨hu, hv, hleft, hright, (h.coprime.coprime_dvd_left hud).coprime_dvd_right hvd, ?_⟩
  exact fun p q hp hq hpu hqv => h.bound p q hp hq (hpu.trans hud) (hqv.trans hvd)

/-! ### The loop -/

theorem binInvLoop_of_left_eq_one (m fuel v x y : Nat) : binInvLoop m fuel 1 v x y = x % m := by
  cases fuel <;> simp [binInvLoop]

theorem binInvLoop_of_right_eq_one (m fuel x y : Nat) (hu : u ≠ 1) : binInvLoop m fuel u 1 x y = y % m := by
  cases fuel <;> simp [binInvLoop, hu]

/-- The cofactor of 1 is the inverse. -/
theorem Cofactor.mod_mul {m : Nat} (h : Cofactor m a 1 x) : ((x % m : Nat) : ZMod m) * a = 1 := by
  rw [cast_mod, h.residue, Nat.cast_one]

/-- Within the bound on its rounds the loop comes to an inverse. -/
theorem cast_binInvLoop_mul (h : BinInvInvariant t.modulus a fuel u v x y) :
    ((binInvLoop t.modulus fuel u v x y : Nat) : ZMod t.modulus) * a = 1 := by
  induction fuel generalizing u v x y with
  | zero => exact absurd (h.bound 1 1 rfl rfl (one_dvd u) (one_dvd v)) (by decide)
  | succ fuel ih =>
    by_cases hu1 : u = 1
    · subst hu1
      rw [binInvLoop_of_left_eq_one]
      exact h.left.mod_mul
    by_cases hv1 : v = 1
    · subst hv1
      rw [binInvLoop_of_right_eq_one _ _ _ _ hu1]
      exact h.right.mod_mul
    obtain ⟨hu, hv, hhalved⟩ := h.halve
    rw [binInvLoop, if_neg hu1, if_neg hv1]
    dsimp only
    split
    next hge =>
      rcases hge.eq_or_lt with heq | hlt
      · -- Equal coprime registers are 1: the difference 0 ends the loop.
        have hone : (halveWhileEven t.modulus 256 v y).1 = 1 := by
          have hcop := hhalved.coprime
          rwa [← heq, Nat.coprime_self] at hcop
        rw [← heq, Nat.sub_self, hone, binInvLoop_of_right_eq_one _ _ _ _ (by decide)]
        exact (hone ▸ hhalved.right).mod_mul
      · exact ih (hhalved.sub hu hv hlt)
    next hlt => exact ih (hhalved.symm.sub hv hu (not_le.mp hlt)).symm

theorem binInvLoop_lt {m : Nat} (hm : 0 < m) : binInvLoop m fuel u v x y < m := by
  induction fuel generalizing u v x y with
  | zero =>
    rw [binInvLoop]
    split <;> exact Nat.mod_lt _ hm
  | succ fuel ih =>
    rw [binInvLoop]
    split
    · exact Nat.mod_lt _ hm
    split
    · exact Nat.mod_lt _ hm
    dsimp only
    split <;> exact ih

end

/-! ### The engine -/

section
variable {t : Tag} {a : Nat}

theorem mul_lt_two_pow {p q i j k : Nat} (hp : p < 2 ^ i) (hq : q < 2 ^ j) (hk : i + j ≤ k) : p * q < 2 ^ k := by
  refine (Nat.mul_lt_mul'' hp hq).trans_le ?_
  rw [← pow_add]
  exact Nat.pow_le_pow_right (by decide) hk

/-- The first state of the loop: the modulus is prime, and 513 rounds suffice for two registers of 256 bits. -/
theorem binInvInvariant_start (ha : a < t.modulus) (h0 : a ≠ 0) : BinInvInvariant t.modulus a 513 a t.modulus 1 0 where
  left := ⟨Nat.pos_of_ne_zero h0, ha.trans t.modulus_lt, by rw [Nat.cast_one, one_mul]⟩
  right := ⟨t.modulus_pos, t.modulus_lt, by simp⟩
  coprime := (t.prime_modulus.coprime_iff_not_dvd.mpr (Nat.not_dvd_of_pos_of_lt (Nat.pos_of_ne_zero h0) ha)).symm
  bound p q _ _ hp hq := by
    have hpa : p < 2 ^ 256 := (Nat.le_of_dvd (Nat.pos_of_ne_zero h0) hp).trans_lt (ha.trans t.modulus_lt)
    have hqm : q < 2 ^ 256 := (Nat.le_of_dvd t.modulus_pos hq).trans_lt t.modulus_lt
    exact mul_lt_two_pow hpa hqm (by decide)

/-- The engine gives the value of every inverse, 0 for 0. -/
theorem binInv_eq_invMod (ha : a < t.modulus) : binInv t.modulus a = invMod t.modulus a := by
  have := Fact.mk t.prime_modulus
  have hm := t.modulus_pos
  rw [binInv]
  split
  next h0 =>
    refine residue_inj hm (invMod_lt hm a) ?_
    rw [cast_invMod, h0, Nat.cast_zero, inv_zero]
  next h0 =>
    refine residue_inj (binInvLoop_lt hm) (invMod_lt hm a) ?_
    rw [cast_invMod]
    exact eq_inv_of_mul_eq_one_left (cast_binInvLoop_mul (binInvInvariant_start ha h0))

end

/-- Settles O54: the inverse is one value, which is the Fermat power. -/
theorem inverseEngine : Obligations.InverseEngine := by
  unfold Obligations.InverseEngine
  intro t a ha
  rw [binInv_eq_invMod ha, invMod_eq t.modulus_pos t.modulus_lt]

end Sys2Proof.Proofs
end

section
/-! The point commands (43_point.md R203, R205 to R209). -/

namespace Sys2Proof.Proofs

open Sys2Proof Sys2Proof.Machine Sys2Proof.Spec

-- One declaration after another, so that the check of the whole text stays within its memory limit.
set_option Elab.async false

/-! ### The checks that are the point commands' own -/

section
variable (s : State) (n : BitVec 4) (i : RegIdx) (j : PtIdx) (cs : List Check)

@[simp] theorem firstFailing_inFieldP : firstFailing (inFieldP n i s :: cs) = inP s n i (firstFailing cs) := by
  by_cases h : (s.reg i).tag = .fp <;> simp [firstFailing_cons, inFieldP, State.tagOf, inP, h]

@[simp] theorem firstFailing_hasCoords :
    firstFailing (hasCoords n j s :: cs) =
      require ((s.point j).ptag = .affine) ⟨.identityCoordinate, n⟩ (firstFailing cs) := by
  by_cases h : (s.point j).ptag = .affine <;> simp [firstFailing_cons, hasCoords, require, h]

theorem onCurve_eq_true_iff (x y : Nat) : onCurve x y = true ↔ OnCurve x y := decide_eq_true_iff

@[simp] theorem firstFailing_coordsOnCurve (x y : Nat) :
    firstFailing (coordsOnCurve x y :: cs) = require (OnCurve x y) ⟨.notOnCurve, 0⟩ (firstFailing cs) := by
  by_cases h : OnCurve x y <;> simp [firstFailing_cons, coordsOnCurve, require, onCurve_eq_true_iff, h]

end

/-! ### Construction (R203) -/

/-- Settles O12: the seven checks are those of the command, one by one. -/
theorem pointConstruction : Obligations.PointConstruction := by
  unfold Obligations.PointConstruction
  intro s pd rx ry
  exact performs_of_guarded rfl word_eq_packWord rfl (by simp; rfl)

/-! ### Addition: the integers of R205 and the residues of the model are the same field elements -/

theorem emod_P_nonneg (a : Int) : 0 ≤ a % (Config.P : Int) :=
  Int.emod_nonneg a (Int.natCast_ne_zero.mpr Config.P_pos.ne')

theorem modP_lt (a : Int) : modP a < Config.P :=
  (Int.toNat_lt (emod_P_nonneg a)).mpr (Int.emod_lt_of_pos a (Int.natCast_pos.mpr Config.P_pos))

theorem cast_modP (a : Int) : ((modP a : Nat) : ZMod Config.P) = a := by
  rw [← Int.cast_natCast, modP, Int.toNat_of_nonneg (emod_P_nonneg a), ZMod.intCast_mod]

/-- The Fermat quotient of R144 is the quotient of the field. -/
theorem cast_quotP (a b : Int) : ((quotP a b : Int) : ZMod Config.P) = a * (b : ZMod Config.P)⁻¹ := by
  have hinv := cast_invMod .fp (modP b)
  rw [invMod_eq Tag.fp.modulus_pos Tag.fp.modulus_lt, cast_mod, Nat.cast_pow] at hinv
  have hfermat : ((modP b : Nat) : ZMod Config.P) ^ (Config.P - 2) = (b : ZMod Config.P)⁻¹ :=
    hinv.trans (congrArg _ (cast_modP b))
  rw [quotP, ← hfermat]
  push_cast
  rfl

theorem eq_modP_of_cast {x : Nat} {a : Int} (hx : x < Config.P) (h : (x : ZMod Config.P) = a) : x = modP a :=
  residue_inj hx (modP_lt a) (h.trans (cast_modP a).symm)

/-- The slope of a line, whose two differences the model reduces before it divides. -/
theorem divMod_eq_modP_quotP {n d : Nat} {a b : Int} (hn : (n : ZMod Config.P) = a) (hd : (d : ZMod Config.P) = b) :
    divMod Config.P n d = modP (quotP a b) := by
  refine eq_modP_of_cast (divMod_lt Config.P_pos n d) ?_
  rw [cast_divMod_P, cast_quotP, hn, hd]

/-- Lines 4 and 6 of R205 after the slope, `d` being the sum of the abscissae. -/
theorem lineThrough_eq_modP {s x1 y1 x2 : Nat} {d : Int} (hd : d = x1 + x2) :
    lineThrough s x1 y1 x2 =
      .affine (modP ((s : Int) * s - d)) (modP (s * (x1 - (modP ((s : Int) * s - d) : Nat)) - y1)) := by
  have hx : subMod Config.P (subMod Config.P (mulMod Config.P s s) x1) x2 = modP ((s : Int) * s - d) := by
    refine eq_modP_of_cast (subMod_lt Config.P_pos _ _) ?_
    rw [cast_subMod Config.P_pos, cast_subMod Config.P_pos, cast_mulMod, hd]
    push_cast
    ring
  rw [lineThrough, hx]
  congr 1
  refine eq_modP_of_cast (subMod_lt Config.P_pos _ _) ?_
  rw [cast_subMod Config.P_pos, cast_mulMod, cast_subMod Config.P_pos]
  push_cast
  rfl

/-- The model's addition is that of R205 on all coordinates, reduced or not. -/
theorem spec_add_eq_add (A B : Point) : Spec.add A B = A.add B := by
  rcases A with _ | ⟨x1, y1⟩ <;> rcases B with _ | ⟨x2, y2⟩
  case affine.affine =>
    have hchord := divMod_eq_modP_quotP (n := subMod Config.P y2 y1) (d := subMod Config.P x2 x1)
      (a := (y2 : Int) - y1) (b := (x2 : Int) - x1) (by simp [cast_subMod Config.P_pos])
      (by simp [cast_subMod Config.P_pos])
    have htangent := divMod_eq_modP_quotP (n := (3 * x1 * x1 + Config.curveA) % Config.P)
      (d := addMod Config.P y1 y1) (a := 3 * (x1 : Int) * x1 + Config.curveA) (b := 2 * (y1 : Int)) (by simp)
      (by rw [cast_addMod]; push_cast; ring)
    simp only [Spec.add, Point.add, hchord, htangent]
    rw [lineThrough_eq_modP rfl, lineThrough_eq_modP (two_mul (x1 : Int))]
    simp [sub_sub]
  all_goals rfl

theorem setPt_eq_writePoint (s : State) (j : PtIdx) (A : Point) : setPt s j A = s.writePoint j A.toReg := by
  cases A <;> rfl

/-- Settles O13: the model's addition is that of R205. -/
theorem pointAddition : Obligations.PointAddition := by
  unfold Obligations.PointAddition
  intro s pd pa pb
  rw [spec_add_eq_add, setPt_eq_writePoint]
  exact performs_of_guarded rfl word_eq_packWord rfl (by simp)

/-! ### Coordinates and comparisons (R206 to R209) -/

/-- A checked command whose success is the wanted one whenever its checks pass. -/
theorem performs_of_guarded_of_checked {w : Word} {i : Instr} {s t u : State} {cs : List Check}
    {checks : Option ErrorRecord} (hx : exec i s = guarded cs s u.finish) (hw : w = encode i)
    (hi : i.wellFormed = true) (hc : firstFailing cs = checks) (hu : checks = none → u = t) :
    Performs w i s checks t := by
  obtain ⟨hdec, hnone, hsome⟩ := performs_of_guarded hx hw hi hc
  exact ⟨hdec, fun h => hu h ▸ hnone h, hsome⟩

theorem ptag_ne_empty_of_nonemptyPt {s : State} {n : BitVec 4} {j : PtIdx} {rest : Option ErrorRecord}
    (h : nonemptyPt s n j rest = none) : (s.point j).ptag ≠ .empty ∧ rest = none := by
  unfold nonemptyPt at h
  split at h
  · cases h
  · exact ⟨‹_›, h⟩

/-- Two registers that are not empty hold the same point value: both the identity, or both one affine point (R208). -/
theorem pt_eq_iff {a b : PointReg} (ha : a.ptag ≠ .empty) (hb : b.ptag ≠ .empty) :
    a.pt = b.pt ↔ (a.ptag = .identity ∧ b.ptag = .identity) ∨
      (a.ptag = .affine ∧ b.ptag = .affine ∧ a.x = b.x ∧ a.y = b.y) := by
  obtain ⟨ta, xa, ya⟩ := a
  obtain ⟨tb, xb, yb⟩ := b
  cases ta with
  | empty => exact absurd rfl ha
  | identity | affine =>
    cases tb with
    | empty => exact absurd rfl hb
    | identity | affine => simp [PointReg.pt, BitVec.toNat_inj]

/-- Settles O14: PEQ compares the values of registers that its checks found not to be empty. -/
theorem pointReads : Obligations.PointReads := by
  unfold Obligations.PointReads
  intro s rd pa pb
  refine ⟨?pgetx, ?pgety, ?peq, ?ptest⟩
  case pgetx | pgety =>
    simp only [setReg, BitVec.ofNat_toNat, BitVec.setWidth_eq]
    exact performs_of_guarded rfl word_eq_packWord rfl (by simp)
  case peq =>
    refine performs_of_guarded_of_checked rfl word_eq_packWord rfl (by simp) fun h => ?_
    obtain ⟨ha, h⟩ := ptag_ne_empty_of_nonemptyPt h
    obtain ⟨hb, -⟩ := ptag_ne_empty_of_nonemptyPt h
    rw [← decide_eq_decide.mpr (pt_eq_iff ha hb)]
    rfl
  case ptest => exact performs_of_guarded rfl word_eq_packWord rfl (by simp)

end Sys2Proof.Proofs
end

section
/-! Laws of the curve (43_point.md R202, R210, R211). -/

namespace Sys2Proof.Proofs

open Sys2Proof Sys2Proof.Machine Sys2Proof.Spec

-- One declaration after another, so that the check of the whole text stays within its memory limit.
set_option Elab.async false

/-! ### No point has a zero coordinate (R202) -/

theorem seven_ne_zero_P : (7 : ZMod Config.P) ≠ 0 := by
  exact_mod_cast small_ne_zero (n := 7) (by decide) (by decide)

/-- 7 is no square, by Euler's criterion on its power by the sequencer. -/
theorem not_isSquare_seven : ¬ IsSquare (7 : ZMod Config.P) := by
  have := primeP
  rw [ZMod.euler_criterion _ seven_ne_zero_P]
  intro h
  have hpow : ((powMod Config.P 7 (Config.P / 2) : Nat) : ZMod Config.P) = (1 : Nat) := by
    rw [cast_powMod Config.P_pos (by decide)]
    exact_mod_cast h
  exact absurd (residue_inj (powMod_lt Config.P_pos _ _) (by decide) hpow) (by decide +kernel)

theorem onCurve_equation {x y : Nat} (h : OnCurve x y) : (y : ZMod Config.P) * y = x * x * x + 7 :=
  (onCurve_iff x y).mp ((onCurve_eq_true_iff x y).mpr h)

/-- Settles O55: a point on an axis would make 7 a square or -7 a cube. -/
theorem noZeroCoordinate : Obligations.NoZeroCoordinate := by
  unfold Obligations.NoZeroCoordinate
  refine ⟨?square, ?cube, fun x y _ _ h => ⟨?abscissa, ?ordinate⟩⟩
  case square =>
    rintro ⟨u, hu⟩
    have h := cast_mod Config.P (u * u)
    rw [hu, Nat.cast_mul] at h
    exact not_isSquare_seven ⟨u, h⟩
  case cube =>
    rintro ⟨u, hu⟩
    have h := cast_mod Config.P (u * u * u)
    rw [hu, Nat.cast_sub (by decide), ZMod.natCast_self, Nat.cast_mul, Nat.cast_mul] at h
    exact cube_ne_neg_seven u (by rw [← h]; push_cast; ring)
  case abscissa =>
    rintro rfl
    exact not_isSquare_seven ⟨y, by simpa using (onCurve_equation h).symm⟩
  case ordinate =>
    rintro rfl
    exact cube_ne_neg_seven x (by simpa using (onCurve_equation h).symm)

/-! ### Addition (R210, R211) -/

theorem standsFor_of_valid {A : Point} (h : Valid A) : ∃ Q, A.StandsFor Q := by
  cases A with
  | identity => exact ⟨0, Point.standsFor_identity⟩
  | affine x y =>
    obtain ⟨hx, hy, hc⟩ := h
    exact Point.standsFor_of_onCurve hx hy ((onCurve_eq_true_iff x y).mpr hc)

theorem valid_of_standsFor {A : Point} {Q : groupCurve.Point} (h : A.StandsFor Q) : Valid A := by
  cases A with
  | identity => trivial
  | affine x y =>
    obtain ⟨hx, hy, hc⟩ := Point.onCurve_of_standsFor h
    exact ⟨hx, hy, (onCurve_eq_true_iff x y).mp hc⟩

@[simp] theorem identity_add (A : Point) : Point.identity.add A = A := rfl

@[simp] theorem add_identity (A : Point) : A.add .identity = A := by cases A <;> rfl

section
variable {x x1 y1 x2 y2 : Nat}

/-- The slope of the chord through two points (R205 line 4). -/
def chordSlope (x1 y1 x2 y2 : Nat) : Nat := divMod Config.P (subMod Config.P y2 y1) (subMod Config.P x2 x1)

/-- The slope of the tangent at a point (R205 line 6). -/
def tangentSlope (x y : Nat) : Nat :=
  divMod Config.P ((3 * x * x + Config.curveA) % Config.P) (addMod Config.P y y)

/-- Line 3 of R205: a vertical line. -/
theorem add_of_ordinate_ne (h : y1 ≠ y2) : (Point.affine x y1).add (.affine x y2) = .identity := by
  simp [Point.add, h]

/-- Line 4 of R205. -/
theorem add_of_abscissa_ne (h : x1 ≠ x2) :
    (Point.affine x1 y1).add (.affine x2 y2) = lineThrough (chordSlope x1 y1 x2 y2) x1 y1 x2 := by
  simp [Point.add, h, chordSlope]

/-- Lines 5 and 6 of R205. -/
theorem add_self (x y : Nat) :
    (Point.affine x y).add (.affine x y) = if y = 0 then .identity else lineThrough (tangentSlope x y) x y x := by
  simp [Point.add, tangentSlope]

theorem cast_chordSlope_mul (h : (x2 : ZMod Config.P) - x1 ≠ 0) :
    ((chordSlope x1 y1 x2 y2 : Nat) : ZMod Config.P) * (x2 - x1) = y2 - y1 := by
  have := primeP
  rw [chordSlope, cast_divMod_P, cast_subMod Config.P_pos, cast_subMod Config.P_pos]
  field_simp

theorem cast_tangentSlope_mul {y : Nat} (hy : (y : ZMod Config.P) ≠ 0) :
    ((tangentSlope x y : Nat) : ZMod Config.P) * (2 * y) = 3 * (x : ZMod Config.P) ^ 2 := by
  have := primeP
  have h2 := two_ne_zero_P
  rw [tangentSlope, cast_divMod_P, cast_mod, cast_addMod, ← two_mul]
  push_cast [Config.curveA]
  field_simp
  ring

end

/-- Settles O56: valid points stand for elements of the curve's group, whose addition commutes. -/
theorem additionLaws : Obligations.AdditionLaws := by
  unfold Obligations.AdditionLaws
  intro A B hA hB
  have := primeP
  obtain ⟨Q, hQ⟩ := standsFor_of_valid hA
  obtain ⟨S, hS⟩ := standsFor_of_valid hB
  have hsum := Point.add_standsFor hQ hS
  have hcomm : (B.add A).StandsFor (Q + S) := add_comm S Q ▸ Point.add_standsFor hS hQ
  exact ⟨Point.standsFor_inj hsum hcomm, add_identity A, identity_add A, valid_of_standsFor hsum⟩

end Sys2Proof.Proofs
end

section
/-! The point-add pipeline (43_point.md R220 to R225): the point value that a Jacobian triple stands for, which every
operation on triples keeps. No step needs the point to be on the curve. -/

namespace Sys2Proof.Proofs

open Sys2Proof Sys2Proof.Machine Sys2Proof.Spec

-- One declaration after another, so that the check of the whole text stays within its memory limit.
set_option Elab.async false

/-! ### Zero tests on residues -/

theorem eq_zero_iff_cast {a : Nat} (ha : a < Config.P) : a = 0 ↔ (a : ZMod Config.P) = 0 :=
  ⟨fun h => by rw [h, Nat.cast_zero], fun h => residue_inj ha Config.P_pos (by rw [h, Nat.cast_zero])⟩

theorem subMod_eq_zero_iff {a b : Nat} : subMod Config.P a b = 0 ↔ (a : ZMod Config.P) = b := by
  rw [eq_zero_iff_cast (subMod_lt Config.P_pos a b), cast_subMod Config.P_pos, sub_eq_zero]

theorem two_mul_subMod_eq_zero_iff {a b : Nat} :
    2 * subMod Config.P a b % Config.P = 0 ↔ (a : ZMod Config.P) = b := by
  have := primeP
  rw [eq_zero_iff_cast (Nat.mod_lt _ Config.P_pos), cast_mod, Nat.cast_mul, Nat.cast_ofNat,
    mul_eq_zero_iff_left two_ne_zero_P, cast_subMod Config.P_pos, sub_eq_zero]

/-! ### The value of a triple (R220) -/

/-- The triple stands for the point value (R220); the coordinates are compared without a division. -/
def HasValue (j : Jac) : Point → Prop
  | .identity => j.Z = 0
  | .affine x y => x < Config.P ∧ y < Config.P ∧ (j.Z : ZMod Config.P) ≠ 0 ∧
      (j.X : ZMod Config.P) = x * (j.Z : ZMod Config.P) ^ 2 ∧ (j.Y : ZMod Config.P) = y * (j.Z : ZMod Config.P) ^ 3

section
variable {j k : Jac} {A B : Point} {x y : Nat}

theorem z_ne_zero_of_cast (h : (j.Z : ZMod Config.P) ≠ 0) : j.Z ≠ 0 := fun h0 => h (by rw [h0, Nat.cast_zero])

/-- The converter of R223 for a triple that is not the identity. -/
theorem toAffine_of_z_ne_zero (h : j.Z ≠ 0) :
    ∃ x y, j.toAffine = .affine x y ∧ x < Config.P ∧ y < Config.P ∧
      (x : ZMod Config.P) = j.X * (j.Z : ZMod Config.P)⁻¹ ^ 2 ∧
      (y : ZMod Config.P) = j.Y * (j.Z : ZMod Config.P)⁻¹ ^ 3 := by
  have hinv : ((invMod Config.P j.Z : Nat) : ZMod Config.P) = (j.Z : ZMod Config.P)⁻¹ := cast_invMod .fp j.Z
  refine ⟨_, _, by rw [Jac.toAffine, if_neg h], Nat.mod_lt _ Config.P_pos, Nat.mod_lt _ Config.P_pos, ?_, ?_⟩
  all_goals
    rw [cast_mod]
    push_cast [hinv]
    ring

/-- Every triple of field elements has the value that the converter of R223 gives. -/
theorem hasValue_toAffine (h : Triple j) : HasValue j j.toAffine := by
  have := primeP
  obtain ⟨-, -, hZ⟩ := h
  by_cases h0 : j.Z = 0
  · rw [Jac.toAffine, if_pos h0]
    exact h0
  · have hz := mt (eq_zero_iff_cast hZ).mpr h0
    obtain ⟨x, y, he, hx, hy, hX, hY⟩ := toAffine_of_z_ne_zero h0
    rw [he]
    exact ⟨hx, hy, hz, by rw [hX]; field_simp, by rw [hY]; field_simp⟩

/-- It has no other. -/
theorem toAffine_eq_of_hasValue (h : HasValue j A) : j.toAffine = A := by
  have := primeP
  cases A with
  | identity => exact if_pos h
  | affine x y =>
    obtain ⟨hx, hy, hz, hX, hY⟩ := h
    obtain ⟨x', y', he, hx', hy', hX', hY'⟩ := toAffine_of_z_ne_zero (z_ne_zero_of_cast hz)
    have ex : x' = x := residue_inj hx' hx (by rw [hX', hX]; field_simp)
    have ey : y' = y := residue_inj hy' hy (by rw [hY', hY]; field_simp)
    rw [he, ex, ey]

/-- The converter of R221 gives a triple of the point. -/
theorem hasValue_toJac (h : A.Reduced) : HasValue A.toJac A := by
  have := primeP
  cases A with
  | identity => rfl
  | affine x y =>
    obtain ⟨hx, hy⟩ := h
    exact ⟨hx, hy, by simp [Point.toJac]⟩

theorem triple_identity : Triple Jac.identity := by
  unfold Triple
  decide

theorem triple_toJac (h : A.Reduced) : Triple A.toJac := by
  cases A with
  | identity => exact triple_identity
  | affine x y =>
    obtain ⟨hx, hy⟩ := h
    exact ⟨hx, hy, show 1 < Config.P by decide⟩

/-- A triple whose value is the third point of a line, reflected: the end of the chord and of the tangent (R205). -/
theorem hasValue_lineThrough {s x1 y1 x2 : Nat} {X : ZMod Config.P} (hs : X = (s : ZMod Config.P) * s - x1 - x2)
    (hz : (j.Z : ZMod Config.P) ≠ 0) (hX : (j.X : ZMod Config.P) = X * (j.Z : ZMod Config.P) ^ 2)
    (hY : (j.Y : ZMod Config.P) = (s * (x1 - X) - y1) * (j.Z : ZMod Config.P) ^ 3) :
    HasValue j (lineThrough s x1 y1 x2) := by
  subst hs
  refine ⟨subMod_lt Config.P_pos _ _, subMod_lt Config.P_pos _ _, hz, ?_, ?_⟩
  · simpa only [cast_subMod Config.P_pos, cast_mulMod] using hX
  · simpa only [cast_subMod Config.P_pos, cast_mulMod] using hY

/-! ### Doubling (R222) -/

theorem triple_double (j : Jac) : Triple j.double := by
  unfold Jac.double
  split
  · exact triple_identity
  · exact ⟨subMod_lt Config.P_pos _ _, subMod_lt Config.P_pos _ _, Nat.mod_lt _ Config.P_pos⟩

/-- The formulas of R222 as polynomials in the coordinates. -/
theorem cast_double {X Y Z : ZMod Config.P} (hX : (j.X : ZMod Config.P) = X) (hY : (j.Y : ZMod Config.P) = Y)
    (hZ : (j.Z : ZMod Config.P) = Z) (hz : j.Z ≠ 0) (hy : j.Y ≠ 0) :
    (j.double.X : ZMod Config.P) = 9 * X ^ 4 - 8 * X * Y ^ 2 ∧
    (j.double.Y : ZMod Config.P) = 3 * X ^ 2 * (4 * X * Y ^ 2 - j.double.X) - 8 * Y ^ 4 ∧
    (j.double.Z : ZMod Config.P) = 2 * Y * Z := by
  subst hX hY hZ
  simp only [Jac.double, hz, hy, or_self, if_false, cast_subMod Config.P_pos, cast_mod, Nat.cast_mul, Nat.cast_add,
    Nat.cast_ofNat]
  refine ⟨?_, ?_, trivial⟩ <;> ring

/-- Doubling a triple doubles its value. -/
theorem hasValue_double (hj : Triple j) (h : HasValue j (.affine x y)) :
    HasValue j.double ((Point.affine x y).add (.affine x y)) := by
  have := primeP
  obtain ⟨-, hYlt, -⟩ := hj
  obtain ⟨hx, hy, hz, hX, hY⟩ := h
  have hY0 : j.Y = 0 ↔ y = 0 := by
    rw [eq_zero_iff_cast hYlt, eq_zero_iff_cast hy, hY, mul_eq_zero_iff_right (pow_ne_zero 3 hz)]
  rw [add_self]
  split
  next hy0 =>
    have hd : j.double = Jac.identity := if_pos (.inr (hY0.mpr hy0))
    rw [hd]
    rfl
  next hy0 =>
    have hyz := mt (eq_zero_iff_cast hy).mpr hy0
    have hs := cast_tangentSlope_mul (x := x) hyz
    obtain ⟨dX, dY, dZ⟩ := cast_double hX hY rfl (z_ne_zero_of_cast hz) (mt hY0.mp hy0)
    generalize tangentSlope x y = s at hs ⊢
    have hdX : (j.double.X : ZMod Config.P) = (s * s - x - x) * (j.double.Z : ZMod Config.P) ^ 2 := by
      rw [dX, dZ]
      linear_combination -(j.Z : ZMod Config.P) ^ 8 * (s * (2 * y) + 3 * (x : ZMod Config.P) ^ 2) * hs
    refine hasValue_lineThrough rfl ?_ hdX ?_
    · rw [dZ]
      exact mul_ne_zero (mul_ne_zero two_ne_zero_P (mul_ne_zero hyz (pow_ne_zero 3 hz))) hz
    · rw [dY, hdX, dZ]
      linear_combination -(4 * (y : ZMod Config.P) ^ 2 * (j.Z : ZMod Config.P) ^ 12 * (x - (s * s - x - x))) * hs

/-! ### Addition with its selector (R224) -/

theorem triple_add (hj : Triple j) (hk : Triple k) : Triple (j.add k) := by
  unfold Jac.add
  split_ifs
  · exact hk
  · exact hj
  · dsimp only
    split_ifs
    · exact triple_double j
    · exact triple_identity
    · exact ⟨subMod_lt Config.P_pos _ _, subMod_lt Config.P_pos _ _, Nat.mod_lt _ Config.P_pos⟩

/-- The selector's two tests (R224), on triples that are not the identity. -/
theorem add_of_same_abscissa (hj : j.Z ≠ 0) (hk : k.Z ≠ 0)
    (hU : (k.X : ZMod Config.P) * (j.Z * j.Z) = j.X * (k.Z * k.Z)) :
    j.add k = if (k.Y : ZMod Config.P) * j.Z * (j.Z * j.Z) = j.Y * k.Z * (k.Z * k.Z) then j.double
      else Jac.identity := by
  simp only [Jac.add, hj, hk, if_false, subMod_eq_zero_iff, two_mul_subMod_eq_zero_iff, cast_mod, Nat.cast_mul, hU,
    if_true]

/-- The formulas of R224 as polynomials in the coordinates. -/
theorem cast_add {X1 Y1 Z1 X2 Y2 Z2 H R : ZMod Config.P} (hX1 : (j.X : ZMod Config.P) = X1)
    (hY1 : (j.Y : ZMod Config.P) = Y1) (hZ1 : (j.Z : ZMod Config.P) = Z1) (hX2 : (k.X : ZMod Config.P) = X2)
    (hY2 : (k.Y : ZMod Config.P) = Y2) (hZ2 : (k.Z : ZMod Config.P) = Z2) (hH : H = X2 * Z1 ^ 2 - X1 * Z2 ^ 2)
    (hR : R = Y2 * Z1 ^ 3 - Y1 * Z2 ^ 3) (hj : j.Z ≠ 0) (hk : k.Z ≠ 0) (h0 : H ≠ 0) :
    ((j.add k).X : ZMod Config.P) = 4 * R ^ 2 - 4 * H ^ 3 - 8 * (X1 * Z2 ^ 2) * H ^ 2 ∧
    ((j.add k).Y : ZMod Config.P) =
      2 * R * (4 * (X1 * Z2 ^ 2) * H ^ 2 - (j.add k).X) - 8 * (Y1 * Z2 ^ 3) * H ^ 3 ∧
    ((j.add k).Z : ZMod Config.P) = 2 * Z1 * Z2 * H := by
  subst hX1 hY1 hZ1 hX2 hY2 hZ2 hH hR
  have hU : ¬ (k.X : ZMod Config.P) * (j.Z * j.Z) = j.X * (k.Z * k.Z) := by
    rwa [← pow_two, ← pow_two, ← sub_eq_zero]
  simp only [Jac.add, hj, hk, if_false, subMod_eq_zero_iff, cast_subMod Config.P_pos, cast_mod, Nat.cast_mul,
    Nat.cast_add, Nat.cast_ofNat, hU]
  refine ⟨?_, ?_, ?_⟩ <;> ring

/-- Adding triples of different abscissae adds their values. -/
theorem hasValue_chord {x1 y1 x2 y2 : Nat} (h1 : HasValue j (.affine x1 y1)) (h2 : HasValue k (.affine x2 y2))
    (hne : x1 ≠ x2) : HasValue (j.add k) ((Point.affine x1 y1).add (.affine x2 y2)) := by
  have := primeP
  obtain ⟨hx1, hy1, hz1, hX1, hY1⟩ := h1
  obtain ⟨hx2, hy2, hz2, hX2, hY2⟩ := h2
  have hd : (x2 : ZMod Config.P) - x1 ≠ 0 := sub_ne_zero.mpr fun h => hne (residue_inj hx2 hx1 h).symm
  have hs := cast_chordSlope_mul (y1 := y1) (y2 := y2) hd
  have hw := mul_ne_zero hz1 hz2
  obtain ⟨aX, aY, aZ⟩ := cast_add (H := (x2 - x1) * (j.Z * k.Z : ZMod Config.P) ^ 2)
    (R := (y2 - y1) * (j.Z * k.Z : ZMod Config.P) ^ 3) hX1 hY1 rfl hX2 hY2 rfl (by ring) (by ring)
    (z_ne_zero_of_cast hz1) (z_ne_zero_of_cast hz2) (mul_ne_zero hd (pow_ne_zero 2 hw))
  rw [add_of_abscissa_ne hne]
  generalize chordSlope x1 y1 x2 y2 = s at hs ⊢
  rw [← hs] at aX aY
  have haX : ((j.add k).X : ZMod Config.P) = (s * s - x1 - x2) * ((j.add k).Z : ZMod Config.P) ^ 2 := by
    rw [aX, aZ]
    ring
  refine hasValue_lineThrough rfl ?_ haX ?_
  · rw [aZ, mul_assoc 2]
    exact mul_ne_zero (mul_ne_zero two_ne_zero_P hw) (mul_ne_zero hd (pow_ne_zero 2 hw))
  · rw [aY, haX, aZ]
    ring

/-- Adding triples of one abscissa: the selector doubles equal points and gives the identity for opposite ones. -/
theorem hasValue_add_of_same_abscissa {y1 y2 : Nat} (hj : Triple j) (h1 : HasValue j (.affine x y1))
    (h2 : HasValue k (.affine x y2)) : HasValue (j.add k) ((Point.affine x y1).add (.affine x y2)) := by
  have := primeP
  have hdouble := hasValue_double hj h1
  obtain ⟨-, hy1, hz1, hX1, hY1⟩ := h1
  obtain ⟨-, hy2, hz2, hX2, hY2⟩ := h2
  rw [add_of_same_abscissa (z_ne_zero_of_cast hz1) (z_ne_zero_of_cast hz2) (by rw [hX1, hX2]; ring)]
  have hS : (k.Y : ZMod Config.P) * j.Z * (j.Z * j.Z) = j.Y * k.Z * (k.Z * k.Z) ↔ y1 = y2 := by
    have hw := pow_ne_zero 3 (mul_ne_zero hz1 hz2)
    rw [hY1, hY2]
    refine ⟨fun h => (residue_inj hy2 hy1 (mul_right_cancel₀ hw ?_)).symm, fun h => by rw [h]; ring⟩
    linear_combination h
  split
  next h =>
    obtain rfl := hS.mp h
    exact hdouble
  next h =>
    rw [add_of_ordinate_ne (mt hS.mpr h)]
    rfl

/-- The pipeline adds the values of its triples (R225). -/
theorem hasValue_add (hj : Triple j) (hA : HasValue j A) (hB : HasValue k B) :
    HasValue (j.add k) (A.add B) := by
  rcases A with _ | ⟨x1, y1⟩
  case identity => rwa [identity_add, show j.add k = k from if_pos hA]
  have hz1 : j.Z ≠ 0 := by
    obtain ⟨-, -, hz, -⟩ := hA
    exact z_ne_zero_of_cast hz
  rcases B with _ | ⟨x2, y2⟩
  case identity => rwa [add_identity, show j.add k = j from (if_neg hz1).trans (if_pos hB)]
  by_cases hx : x1 = x2
  · subst hx
    exact hasValue_add_of_same_abscissa hj hA hB
  · exact hasValue_chord hA hB hx

/-! ### The loop (R225, R247) -/

/-- The loops on triples and on point values go in step. -/
theorem hasValue_jacScalarLoop {cur res : Jac} {C R : Point} (fuel coef : Nat) (hcur : Triple cur) (hres : Triple res)
    (hC : HasValue cur C) (hR : HasValue res R) :
    HasValue (jacScalarLoop fuel coef cur res) (scalarLoop fuel coef C R) := by
  induction fuel generalizing coef cur res C R with
  | zero => exact hR
  | succ fuel ih =>
    rw [jacScalarLoop, scalarLoop]
    split
    next => exact hR
    next =>
      refine ih _ (triple_add hcur hcur) ?_ (hasValue_add hcur hC hC) ?_
      · split
        · exact triple_add hres hcur
        · exact hres
      · split
        · exact hasValue_add hres hR hC
        · exact hR

theorem jacScalarMul_eq_scalarMul (n : Nat) (h : A.Reduced) : jacScalarMul n A = scalarMul n A :=
  toAffine_eq_of_hasValue
    (hasValue_jacScalarLoop _ _ (triple_toJac h) triple_identity (hasValue_toJac h) (R := .identity) rfl)

end

/-- Settles O59: a triple has one value, the converter gives it, and the operations on triples keep it. -/
theorem jacobianPipeline : Obligations.JacobianPipeline := by
  unfold Obligations.JacobianPipeline
  refine ⟨fun j k hj hk => ?add, fun x y hx hy => ?roundTrip, rfl, fun n x y hx hy => ?multiple, fun n => ?identity⟩
  case add => exact toAffine_eq_of_hasValue (hasValue_add hj (hasValue_toAffine hj) (hasValue_toAffine hk))
  case roundTrip => exact toAffine_eq_of_hasValue (hasValue_toJac ⟨hx, hy⟩)
  case multiple => exact jacScalarMul_eq_scalarMul n ⟨hx, hy⟩
  case identity => exact jacScalarMul_eq_scalarMul n trivial

end Sys2Proof.Proofs
end

section
/-! Scalar multiplication (44_secp256k1_scalar.md R241, R243, R244, R248). -/

namespace Sys2Proof.Proofs

open Sys2Proof Sys2Proof.Machine Sys2Proof.Spec

-- One declaration after another, so that the check of the whole text stays within its memory limit.
set_option Elab.async false

/-! ### The loop without its bound on iterations (R241) -/

section
variable (coef k : Nat) (cur res A : Point)

/-- The double-and-add loop with as many iterations allowed as it can need: a scalar has fewer bits than its value. -/
def bitLoop : Point := scalarLoop coef coef cur res

@[simp] theorem bitLoop_zero : bitLoop 0 cur res = res := rfl

theorem scalarLoop_eq_bitLoop {fuel : Nat} (h : coef < 2 ^ fuel) : scalarLoop fuel coef cur res = bitLoop coef cur res :=
  scalarLoop_fuel fuel coef coef cur res h coef.lt_two_pow_self

/-- One iteration: the lowest bit tells whether the running point is added, and the point is doubled. -/
theorem bitLoop_of_ne_zero (h : coef ≠ 0) :
    bitLoop coef cur res = bitLoop (coef / 2) (cur.add cur) (if coef % 2 = 1 then res.add cur else res) := by
  have hlt : coef < 2 ^ (coef + 1) := coef.lt_two_pow_self.trans (Nat.pow_lt_pow_succ Nat.one_lt_two)
  rw [← scalarLoop_eq_bitLoop coef cur res hlt, scalarLoop, if_neg h]
  exact scalarLoop_eq_bitLoop _ _ _ (by omega)

theorem scalarMul_eq_bitLoop : scalarMul k A = bitLoop (k % Config.N) A .identity :=
  scalarLoop_eq_bitLoop _ _ _ ((Nat.mod_lt k Config.N_pos).trans Config.N_lt)

end

/-- Settles O15: the model's loop, whose bound on iterations no scalar exceeds. Protected, so that the bare name stays
the model's loop. -/
protected theorem scalarLoop : Obligations.ScalarLoop := by
  unfold Obligations.ScalarLoop
  exact ⟨bitLoop, bitLoop_zero, bitLoop_of_ne_zero, scalarMul_eq_bitLoop⟩

/-! ### The commands (R243, R244) -/

/-- Settles O16: the two commands differ in the point they multiply, which PMUL checks and PMULG has built in. -/
theorem scalarMultiplication : Obligations.ScalarMultiplication := by
  unfold Obligations.ScalarMultiplication
  intro s pd rk pa
  simp only [setPt_eq_writePoint]
  refine ⟨?pmul, ?pmulg⟩
  case pmul => exact performs_of_guarded rfl word_eq_packWord rfl (by simp)
  case pmulg => exact performs_of_guarded rfl word_eq_packWord rfl (by simp [intOperand])

/-! ### The multiples that R248 names -/

section
variable (k : Nat) (A : Point)

theorem scalarMul_add_N : scalarMul (k + Config.N) A = scalarMul k A := by
  rw [scalarMul, Nat.add_mod_right, scalarMul]

theorem scalarMul_zero : scalarMul 0 A = .identity := by
  rw [scalarMul_eq_bitLoop, Nat.zero_mod, bitLoop_zero]

theorem scalarMul_N : scalarMul Config.N A = .identity := by
  rw [scalarMul_eq_bitLoop, Nat.mod_self, bitLoop_zero]

theorem scalarMul_one : scalarMul 1 A = A := by
  rw [scalarMul_eq_bitLoop, Nat.mod_eq_of_lt (by decide), bitLoop_of_ne_zero _ _ _ Nat.one_ne_zero]
  exact identity_add A

end

section
variable {x y : Nat}

theorem ordinate_ne_zero (h : Valid (.affine x y)) : y ≠ 0 := by
  obtain ⟨hx, hy, hc⟩ := h
  obtain ⟨-, -, haxes⟩ := noZeroCoordinate
  exact (haxes x y hx hy hc).2

/-- The opposite of a residue other than 0 (R14). -/
theorem cast_P_sub (h : y < Config.P) : ((Config.P - y : Nat) : ZMod Config.P) = -y := by
  rw [Nat.cast_sub h.le, ZMod.natCast_self, zero_sub]

/-- The point with the other ordinate is the opposite in the group; the ordinate is not 0 (R202). -/
theorem affine_P_sub_standsFor {Q : groupCurve.Point} (h : (Point.affine x y).StandsFor Q) :
    (Point.affine x (Config.P - y)).StandsFor (-Q) := by
  have h0 := ordinate_ne_zero (valid_of_standsFor h)
  obtain ⟨hx, hy, hn, rfl⟩ := h
  have hneg : groupCurve.negY (x : ZMod Config.P) y = ((Config.P - y : Nat) : ZMod Config.P) := by
    simp [WeierstrassCurve.Affine.negY, cast_P_sub hy]
  refine ⟨hx, by omega, hneg ▸ (WeierstrassCurve.Affine.nonsingular_neg ..).mpr hn, ?_⟩
  simp only [WeierstrassCurve.Affine.Point.neg_some, hneg]

/-- `N` times a point is the identity, so the multiple by one less is the opposite (R242, R248). -/
theorem scalarMul_eq_opposite {k : Nat} (hk : k + 1 = Config.N) (h : Valid (.affine x y)) :
    scalarMul k (.affine x y) = .affine x (Config.P - y) := by
  have := primeP
  obtain ⟨Q, hQ⟩ := standsFor_of_valid h
  have hsum : k • Q + Q = 0 := by rw [← succ_nsmul, hk, order_nsmul]
  have hmul := scalarMul_standsFor_nsmul k hQ
  rw [eq_neg_of_add_eq_zero_left hsum] at hmul
  exact Point.standsFor_inj hmul (affine_P_sub_standsFor hQ)

end

theorem basePoint_valid : Valid basePoint := ⟨by decide, by decide, by decide⟩

/-- Settles O57: the multiples by 0, 1 and `N` by the loop, the one by `N - 1` in the group. -/
theorem scalarFacts : Obligations.ScalarFacts := by
  unfold Obligations.ScalarFacts
  have hN : Config.N - 1 + 1 = Config.N := Nat.sub_add_cancel Config.N_pos
  refine ⟨fun k A => ?multiples, fun x y h => scalarMul_eq_opposite hN h, ?sum⟩
  case multiples => exact ⟨scalarMul_add_N k A, scalarMul_zero A, scalarMul_N A, scalarMul_one A⟩
  case sum =>
    rw [basePoint, scalarMul_eq_opposite hN basePoint_valid]
    exact add_of_ordinate_ne (by decide)

end Sys2Proof.Proofs
end

section
/-! Square roots in the field of `P` and the recovery of a point from its abscissa (44_secp256k1_scalar.md R245, R246,
R249). -/

namespace Sys2Proof.Proofs

open Sys2Proof Sys2Proof.Machine Sys2Proof.Spec

-- One declaration after another, so that the check of the whole text stays within its memory limit.
set_option Elab.async false

/-! ### The square of the candidate root (R245) -/

section
variable {v : Nat}

theorem sqrtCandidate_eq (v : Nat) : sqrtCandidate v = v ^ ((Config.P + 1) / 4) % Config.P := by
  rw [sqrtCandidate, powMod_eq Config.P_pos (by decide)]
  rfl

/-- The square of the candidate is the value times its Euler power. -/
theorem cast_sqrtCandidate_mul_self (v : Nat) :
    (sqrtCandidate v : ZMod Config.P) * sqrtCandidate v = v * (v : ZMod Config.P) ^ (Config.P / 2) := by
  rw [sqrtCandidate, cast_powMod Config.P_pos (by decide), ← pow_add, ← pow_succ']
  rfl

/-- The root of a square. -/
theorem cast_sqrtCandidate_mul_self_of_isSquare (h : IsSquare (v : ZMod Config.P)) :
    (sqrtCandidate v : ZMod Config.P) * sqrtCandidate v = v := by
  have := primeP
  rw [cast_sqrtCandidate_mul_self]
  rcases eq_or_ne (v : ZMod Config.P) 0 with h0 | h0
  · rw [h0, zero_mul]
  · rw [(ZMod.euler_criterion _ h0).mp h, mul_one]

/-- The root of the opposite of a value that is no square. -/
theorem cast_sqrtCandidate_mul_self_of_not_isSquare (h : ¬ IsSquare (v : ZMod Config.P)) :
    (sqrtCandidate v : ZMod Config.P) * sqrtCandidate v = -v := by
  have := primeP
  have h0 : (v : ZMod Config.P) ≠ 0 := fun h0 => h (h0 ▸ IsSquare.zero)
  have hpow := (ZMod.pow_div_two_eq_neg_one_or_one _ h0).resolve_left fun h1 => h ((ZMod.euler_criterion _ h0).mpr h1)
  rw [cast_sqrtCandidate_mul_self, hpow, mul_neg_one]

/-- A residue is a square in the field if a number has it as its square. -/
theorem isSquare_cast_iff (hv : v < Config.P) : IsSquare (v : ZMod Config.P) ↔ ∃ u, u * u % Config.P = v := by
  constructor
  · rintro ⟨r, hr⟩
    have : NeZero Config.P := ⟨Config.P_pos.ne'⟩
    refine ⟨r.val, residue_inj (Nat.mod_lt _ Config.P_pos) hv ?_⟩
    rw [cast_mod, Nat.cast_mul, ZMod.natCast_zmod_val, hr]
  · rintro ⟨u, rfl⟩
    exact ⟨u, by rw [cast_mod, Nat.cast_mul]⟩

end

/-- Settles O17: the square of the root by Euler's criterion. -/
theorem squareRoot : Obligations.SquareRoot := by
  unfold Obligations.SquareRoot
  intro s rd ra
  simp only [← sqrtCandidate_eq]
  refine ⟨?fsqrt, fun hv hsq => ?square, fun hv hsq => ?nonsquare⟩
  case fsqrt => exact performs_of_guarded rfl word_eq_packWord rfl (by simp [elementPOperand])
  case square =>
    refine residue_inj (Nat.mod_lt _ Config.P_pos) hv ?_
    rw [cast_mod, Nat.cast_mul, cast_sqrtCandidate_mul_self_of_isSquare ((isSquare_cast_iff hv).mpr hsq)]
  case nonsquare =>
    have h0 : num s ra ≠ 0 := fun h0 => hsq ⟨0, by simp [h0]⟩
    refine residue_inj (Nat.mod_lt _ Config.P_pos) (by omega) ?_
    rw [cast_mod, Nat.cast_mul, cast_P_sub hv,
      cast_sqrtCandidate_mul_self_of_not_isSquare fun h => hsq ((isSquare_cast_iff hv).mp h)]

/-! ### The recovery of a point (R246) -/

theorem ite_eq_toNat (odd : Bool) : (if odd then 1 else 0) = odd.toNat := by cases odd <;> rfl

/-- Settles O18: the root and the choice between it and its opposite are the command's own. -/
theorem pointRecovery : Obligations.PointRecovery := by
  unfold Obligations.PointRecovery
  intro s pd rx odd
  have hpar := odd.toNat_lt
  simp only [← sqrtCandidate_eq, ite_eq_toNat]
  refine performs_of_guarded rfl word_eq_packWord rfl ?_
  simp only [elementPOperand, List.cons_append, List.nil_append, firstFailing_regHeld, firstFailing_isElement,
    firstFailing_inFieldP, firstFailing_inRange, firstFailing_coordsOnCurve, firstFailing_nil]
  rfl

/-! ### The round trip (R249) -/

section
variable {b x y : Nat}

/-- The roots of the right side at the abscissa of a point are its ordinate and the opposite. -/
theorem sqrtCandidate_curveRhs (h : Valid (.affine x y)) :
    sqrtCandidate (curveRhs x) = y ∨ sqrtCandidate (curveRhs x) = Config.P - y := by
  have := primeP
  have h0 := ordinate_ne_zero h
  obtain ⟨-, hy, hc⟩ := h
  have hrhs : (curveRhs x : ZMod Config.P) = y * y := by
    rw [← Nat.cast_mul, ← cast_mod _ (y * y)]
    exact congrArg _ hc.symm
  have hroot := cast_sqrtCandidate_mul_self_of_isSquare ⟨_, hrhs⟩
  rw [hrhs, mul_self_eq_mul_self_iff, ← cast_P_sub hy] at hroot
  have hlt := sqrtCandidate_lt (curveRhs x)
  exact hroot.imp (residue_inj hlt hy) (residue_inj hlt (by omega))

/-- The modulus is odd, so the two roots have different parities. -/
theorem rootOfParity_eq {odd : Bool} (h0 : y ≠ 0) (hy : y < Config.P) (hodd : odd.toNat = y % 2)
    (hb : b = y ∨ b = Config.P - y) : rootOfParity b odd = y := by
  have hP : Config.P % 2 = 1 := by decide
  unfold rootOfParity
  rcases hb with rfl | rfl <;> split <;> omega

theorem toNat_getLsbD_zero (v : Val) : (v.getLsbD 0).toNat = v.toNat % 2 := by
  rw [← BitVec.testBit_toNat, Nat.toNat_testBit, pow_zero, Nat.div_one]

end

/-- PDECOMP on an abscissa and a parity for which a point `Affine(x, y)` with `y ≠ 0` exists (R246). -/
theorem pdecomp_eq {s t : State} {pd : PtIdx} {rx : RegIdx} {odd : Bool} {y : Nat} (htag : s.tagOf rx = .fp)
    (hv : Valid (.affine (s.valOf rx) y)) (hodd : odd.toNat = y % 2) (h : exec (.pdecomp pd rx odd) s = .next t) :
    t = (s.writePoint pd (Point.affine (s.valOf rx) y).toReg).finish := by
  have h0 := ordinate_ne_zero hv
  have hroots := sqrtCandidate_curveRhs hv
  obtain ⟨-, hy, hc⟩ := hv
  have hroot := rootOfParity_eq h0 hy hodd hroots
  have hne : sqrtCandidate (curveRhs (s.valOf rx)) ≠ 0 := by omega
  rw [← hroot]
  refine eq_of_guarded ?_ h
  have hcurve : onCurve (s.valOf rx) y = true := (onCurve_eq_true_iff _ _).mpr hc
  simp [firstFailing_eq_none, elementPOperand, regHeld, isElement, inFieldP, inRange, coordsOnCurve, htag, Tag.isField,
    hroot, hcurve, hne]

/-- Settles O58: of the two roots, the one with the parity of the ordinate is the ordinate. -/
theorem recoveryRoundTrip : Obligations.RecoveryRoundTrip := by
  unfold Obligations.RecoveryRoundTrip
  intro s t pd pa rx hs haff hreg h
  have hx : s.valOf rx = (s.point pa).x.toNat := by rw [State.valOf, hreg]
  obtain ⟨hxP, hyP, hc⟩ := (hs pa).1 haff
  have hv : Valid (.affine (s.valOf rx) (s.point pa).y.toNat) := hx ▸ ⟨hxP, hyP, (onCurve_eq_true_iff _ _).mp hc⟩
  obtain rfl := pdecomp_eq (by rw [State.tagOf, hreg]) hv (toNat_getLsbD_zero _) h
  simp [Point.toReg, hx, ← haff]

end Sys2Proof.Proofs
end

section
/-! The key slot and the verification of signatures (45_ecdsa.md R272, R273, R290). -/

namespace Sys2Proof.Proofs

open Sys2Proof Sys2Proof.Machine Sys2Proof.Spec

-- One declaration after another, so that the check of the whole text stays within its memory limit.
set_option Elab.async false

/-! ### The key slot (R272, R273) -/

@[simp] theorem firstFailing_keyLoaded (s : State) (cs : List Check) :
    firstFailing (keyLoaded s :: cs) = require (s.key.valid = true) ⟨.noKey, 0⟩ (firstFailing cs) := by
  by_cases h : s.key.valid = true <;> simp [firstFailing_cons, keyLoaded, require, h]

/-- Settles O19: KEYLD has the range check of a secret, KEYPUB the check that there is one. -/
theorem keySlotCommands : Obligations.KeySlotCommands := by
  unfold Obligations.KeySlotCommands
  intro s rs pd
  refine ⟨?keyld, ?keypub⟩
  case keyld =>
    refine performs_of_guarded rfl word_eq_packWord rfl ?_
    simp only [intOperand, List.cons_append, List.nil_append, firstFailing_regHeld, firstFailing_isInt,
      firstFailing_inRange, firstFailing_nil]
    rfl
  case keypub => exact performs_of_guarded rfl word_eq_packWord rfl (firstFailing_keyLoaded s [])

/-! ### Verification (R290) -/

theorem invMod_N_eq (a : Nat) : invMod Config.N a = a ^ (Config.N - 2) % Config.N :=
  invMod_eq Config.N_pos Config.N_lt

section
variable {z r s : Nat} {Q : Point}

/-- The steps of R290: the total is affine, with the abscissa `r`. -/
theorem verifies_iff : Verifies z r s Q ↔ ∃ y, verifyTotal z r s Q = .affine r y := by
  unfold Verifies verifyTotal
  simp only [← invMod_N_eq]
  refine ⟨?_, fun ⟨y, h⟩ => ⟨r, y, h, rfl⟩⟩
  rintro ⟨x, y, h, rfl⟩
  exact ⟨y, h⟩

theorem signatureValid_eq_true_iff : signatureValid z r s Q = true ↔ Verifies z r s Q := by
  have h : signatureValid z r s Q = true ↔ ∃ y, verifyTotal z r s Q = .affine r y := by
    unfold signatureValid
    split
    next h => simp [h]
    next x y h => simp [h]
  exact h.trans verifies_iff.symm

end

/-- Settles O25: the flag is the boolean of Verify, and there is no check but those of the operands. -/
theorem verifyCommand : Obligations.VerifyCommand := by
  unfold Obligations.VerifyCommand
  intro s rz rr rs pq ok hok
  have hvalid : ok = signatureValid (num s rz) (num s rr) (num s rs) (s.point pq).pt :=
    Bool.eq_iff_iff.mpr (hok.trans signatureValid_eq_true_iff.symm)
  rw [hvalid]
  exact performs_of_guarded rfl word_eq_packWord rfl (by simp)

end Sys2Proof.Proofs
end

section
/-! The nonce generator (45_ecdsa.md R275 to R277), its turns one by one (R83, R283), and the command NONCE (R280). -/

namespace Sys2Proof.Proofs

open Sys2Proof Sys2Proof.Machine Sys2Proof.Spec

-- One declaration after another, so that the check of the whole text stays within its memory limit.
set_option Elab.async false

/-! ### The buffers and the requests of the generator (R275, R276) -/

theorem nonceAccepted_eq_true_iff (cand : Val) : nonceAccepted cand = true ↔ Accepted cand := decide_eq_true_iff

/-- The subtraction of R275 is made only where it does not wrap. -/
theorem reduceDigest_eq_digest (z : Val) : reduceDigest z = digest z := by
  unfold reduceDigest digest
  split
  next h =>
    have hz := z.isLt
    have hN : Config.N % 2 ^ 256 = Config.N := Nat.mod_eq_of_lt Config.N_lt
    rw [← BitVec.toNat_inj, BitVec.toNat_sub, BitVec.toNat_ofNat, BitVec.toNat_ofNat, hN]
    omega
  next => rfl

/-- The two buffers of a ratchet. -/
def buffers (r : Ratchet) : Val × Val := (r.K, r.V)

section
variable (h : Val → List Byte → Val) (d z : Val)

theorem buffers_seedRatchet : buffers (seedRatchet h d z) = seeded h d z := by
  simp [seedRatchet, reduceDigest_eq_digest, Ratchet.seedRound, Ratchet.newK, Ratchet.newV, Ratchet.initial, buffers,
    seeded, ones]

theorem buffers_retry (r : Ratchet) : buffers (r.retry h) = onceMore h (buffers r) := rfl

theorem length_sent_retry (r : Ratchet) : (r.retry h).sent.length = r.sent.length + 2 := rfl

end

/-! ### The state in a turn -/

/-- The hidden state with the live buffers `c` (R48). -/
def withBuffers (w : Work) (c : Val × Val) : Work := { w with ratcheting := true, bufK := c.1, bufV := c.2 }

/-- The state after the requests `rs`, with the hidden state `w`. -/
def inTurn (s : State) (rs : List HmacRequest) (w : Work) : State := { withRequests s rs with work := w }

section
variable (s : State) (rs q : List HmacRequest) (w : Work)

theorem goingOn_eq_inTurn (c : Val × Val) : goingOn s rs c = inTurn s rs (withBuffers s.work c) := rfl

theorem logRequests_inTurn : (inTurn s rs w).logRequests q = inTurn s (q ++ rs) w := by
  simp [inTurn, withRequests, State.logRequests]

theorem keepRatchet_inTurn (r : Ratchet) :
    (inTurn s rs w).keepRatchet r = inTurn s (r.sent ++ rs) (withBuffers w (buffers r)) :=
  logRequests_inTurn s rs r.sent (withBuffers w (buffers r))

end

section
variable {s : State} {z : Val} {rs : List HmacRequest} {w : Work} {use : Val → State → State}

theorem nonceTurn_of_silent (h : s.env.hmac.answering = false) : nonceTurn s z use = s := by simp [nonceTurn, h]

theorem nonceTurn_of_accepted (h : s.env.hmac.answering = true)
    (hk : Accepted (turnCandidate s.hmac256 s.key.secret z s.work).V) :
    nonceTurn s z use = use (turnCandidate s.hmac256 s.key.secret z s.work).V
      (s.logRequests (turnCandidate s.hmac256 s.key.secret z s.work).sent) := by
  simp [nonceTurn, h, (nonceAccepted_eq_true_iff _).mpr hk]

theorem nonceTurn_of_refused (h : s.env.hmac.answering = true)
    (hk : ¬ Accepted (turnCandidate s.hmac256 s.key.secret z s.work).V) :
    nonceTurn s z use = s.keepRatchet ((turnCandidate s.hmac256 s.key.secret z s.work).retry s.hmac256) := by
  simp [nonceTurn, h, mt (nonceAccepted_eq_true_iff _).mp hk]

end

/-! ### The turns of a command that draws a nonce (R277, R283) -/

/-- After the requests `rs`, and with the hidden state `w`, the next turn draws the candidate that follows `j` refused
ones; it will then have made `5 + 3·j` requests, and outside the generator the hidden state is that of `s`. -/
structure Awaits (s : State) (z : Val) (j : Nat) (rs : List HmacRequest) (w : Work) : Prop where
  drawn : buffers (turnCandidate s.hmac256 s.key.secret z w) = candidate s.hmac256 s.key.secret z j
  requests : (turnCandidate s.hmac256 s.key.secret z w).sent.length + rs.length = 5 + 3 * j
  frame : ∀ c, withBuffers w c = withBuffers s.work c

section
variable {s : State} {z : Val} {j : Nat} {rs : List HmacRequest} {w : Work}

theorem Awaits.drawn_snd (h : Awaits s z j rs w) :
    (turnCandidate s.hmac256 s.key.secret z w).V = (candidate s.hmac256 s.key.secret z j).2 :=
  congrArg Prod.snd h.drawn

/-- The first turn seeds the generator. -/
theorem awaits_first (hs : s.work.ratcheting = false) : Awaits s z 0 [] s.work := by
  have hstart : turnStart s.hmac256 s.key.secret z s.work = seedRatchet s.hmac256 s.key.secret z := by
    simp [turnStart, hs]
  refine ⟨?_, by rw [turnCandidate, hstart]; rfl, fun _ => rfl⟩
  rw [turnCandidate, hstart, candidate, ← buffers_seedRatchet]
  rfl

/-- A later turn makes its candidate from the live buffers, by one request. -/
theorem awaits_next (hrs : rs.length = 7 + 3 * j) :
    Awaits s z (j + 1) rs (withBuffers s.work (onceMore s.hmac256 (candidate s.hmac256 s.key.secret z j))) where
  drawn := rfl
  requests := by
    rw [hrs]
    show 1 + (7 + 3 * j) = 5 + 3 * (j + 1)
    omega
  frame _ := rfl

end

/-- While the provider answers, the command `i` takes a turn of the nonce loop on `z` whenever it is performed in `s`
with other requests and another hidden state; an accepted candidate completes it with the write `result`. -/
structure DrawingCommand (i : Instr) (s : State) (z : Val) (result : State → Val → State) : Prop where
  answering : s.env.hmac.answering = true
  turn : ∀ rs w, ∃ use, exec i (inTurn s rs w) = .next (nonceTurn (inTurn s rs w) z use) ∧
    ∀ k q, use k (inTurn s q w) = completed (result (withRequests s q) k)

theorem turns_of_next {i : Instr} {n : Nat} {s t : State} (h : exec i s = .next t) :
    turns i (n + 1) s = turns i n t := by rw [turns, h]

/-- The turn that follows `n` turns. -/
theorem turns_succ_of_next {i : Instr} {n : Nat} {s t : State} (h : turns i n s = .next t) :
    turns i (n + 1) s = exec i t := by
  induction n generalizing s with
  | zero =>
    obtain ⟨u, hu⟩ := exec_next i s
    rw [turns_of_next hu, ← Host.Outcome.next.inj h, hu, turns]
  | succ n ih =>
    obtain ⟨u, hu⟩ := exec_next i s
    rw [turns_of_next hu] at h ⊢
    exact ih h

namespace DrawingCommand

variable {i : Instr} {s : State} {z : Val} {result : State → Val → State} {j : Nat} {rs : List HmacRequest}
  {w : Work}

theorem turn_of_accepted (D : DrawingCommand i s z result) (hw : Awaits s z j rs w)
    (hk : Accepted (candidate s.hmac256 s.key.secret z j).2) :
    ∃ q, q.length = 5 + 3 * j ∧
      exec i (inTurn s rs w) =
        .next (completed (result (withRequests s q) (candidate s.hmac256 s.key.secret z j).2)) := by
  obtain ⟨use, hx, huse⟩ := D.turn rs w
  refine ⟨(turnCandidate s.hmac256 s.key.secret z w).sent ++ rs, List.length_append.trans hw.requests, ?_⟩
  rw [← hw.drawn_snd] at hk ⊢
  rw [hx, ← huse, ← logRequests_inTurn]
  exact congrArg _ (nonceTurn_of_accepted D.answering hk)

theorem turn_of_refused (D : DrawingCommand i s z result) (hw : Awaits s z j rs w)
    (hk : ¬ Accepted (candidate s.hmac256 s.key.secret z j).2) :
    ∃ q, q.length = 7 + 3 * j ∧
      exec i (inTurn s rs w) =
        .next (goingOn s q (onceMore s.hmac256 (candidate s.hmac256 s.key.secret z j))) := by
  obtain ⟨use, hx, -⟩ := D.turn rs w
  have hlen := hw.requests
  refine ⟨((turnCandidate s.hmac256 s.key.secret z w).retry s.hmac256).sent ++ rs, ?_, ?_⟩
  · rw [List.length_append, length_sent_retry]
    omega
  · rw [hx, goingOn_eq_inTurn, ← hw.frame, ← hw.drawn, ← buffers_retry, ← keepRatchet_inTurn]
    exact congrArg _ (nonceTurn_of_refused D.answering (hw.drawn_snd ▸ hk))

/-- After `j` refused candidates the command still draws. -/
theorem turns_await (D : DrawingCommand i s z result) (hs : s.work.ratcheting = false)
    (hno : ∀ l, l < j → ¬ Accepted (candidate s.hmac256 s.key.secret z l).2) :
    ∃ rs w, turns i j s = .next (inTurn s rs w) ∧ Awaits s z j rs w := by
  induction j with
  | zero => exact ⟨[], s.work, rfl, awaits_first hs⟩
  | succ j ih =>
    obtain ⟨rs, w, ht, hw⟩ := ih fun l hl => hno l (Nat.lt_succ_of_lt hl)
    obtain ⟨q, hq, hx⟩ := D.turn_of_refused hw (hno j (Nat.lt_succ_self j))
    exact ⟨q, _, (turns_succ_of_next ht).trans hx, awaits_next hq⟩

theorem turns_of_accepted (D : DrawingCommand i s z result) (hs : s.work.ratcheting = false)
    (hno : ∀ l, l < j → ¬ Accepted (candidate s.hmac256 s.key.secret z l).2)
    (hk : Accepted (candidate s.hmac256 s.key.secret z j).2) :
    ∃ q, q.length = 5 + 3 * j ∧
      turns i (j + 1) s =
        .next (completed (result (withRequests s q) (candidate s.hmac256 s.key.secret z j).2)) := by
  obtain ⟨rs, w, ht, hw⟩ := D.turns_await hs hno
  rw [turns_succ_of_next ht]
  exact D.turn_of_accepted hw hk

theorem turns_of_refused (D : DrawingCommand i s z result) (hs : s.work.ratcheting = false)
    (hno : ∀ l, l < j → ¬ Accepted (candidate s.hmac256 s.key.secret z l).2)
    (hk : ¬ Accepted (candidate s.hmac256 s.key.secret z j).2) :
    ∃ q, q.length = 7 + 3 * j ∧
      turns i (j + 1) s = .next (goingOn s q (onceMore s.hmac256 (candidate s.hmac256 s.key.secret z j))) := by
  obtain ⟨rs, w, ht, hw⟩ := D.turns_await hs hno
  rw [turns_succ_of_next ht]
  exact D.turn_of_refused hw hk

end DrawingCommand

/-! ### NONCE (R280) -/

/-- The encoding of a legal command is its one word. -/
theorem decode_eq_ok_iff_word {w : Word} {i : Instr} (hw : w = encode i) (hi : i.wellFormed = true) (c : Word) :
    decode c = .ok i ↔ c = w := by
  rw [decode_eq_ok_iff, and_iff_right hi, hw, eq_comm]

section
variable {s : State} {rd rz : RegIdx}

theorem firstFailing_nonce (s : State) (rz : RegIdx) :
    firstFailing (keyLoaded s :: intOperand 2 rz s) = nonceChecks s rz := by
  simp [intOperand, nonceChecks]

theorem exec_nonce_of_none (h : nonceChecks s rz = none) :
    exec (.nonce rd rz) s =
      .next (nonceTurn s (s.reg rz).val fun k t => (t.writeReg rd ⟨.int, k⟩).finish) :=
  guarded_of_none ((firstFailing_nonce s rz).trans h)

theorem exec_nonce_of_some {e : ErrorRecord} (h : nonceChecks s rz = some e) :
    exec (.nonce rd rz) s = .next (s.raiseError e) :=
  guarded_of_some ((firstFailing_nonce s rz).trans h)

/-- The write of an integer that is given by its bits. -/
theorem setReg_toNat (t : State) (i : RegIdx) (f : Tag) (k : Val) : setReg t i f k.toNat = t.writeReg i ⟨f, k⟩ := by
  simp [setReg, State.writeReg]

theorem nonce_draws (rd : RegIdx) (hc : nonceChecks s rz = none) (ha : s.env.hmac.answering = true) :
    DrawingCommand (.nonce rd rz) s (s.reg rz).val fun t k => setReg t rd .int k.toNat where
  answering := ha
  turn rs w := ⟨_, exec_nonce_of_none (s := inTurn s rs w) hc, fun k q => by rw [setReg_toNat]; rfl⟩

end

/-- Settles O20: the first turn of the loop. -/
theorem nonceCommand : Obligations.NonceCommand := by
  unfold Obligations.NonceCommand
  intro s rd rz
  refine ⟨decode_eq_ok_iff_word word_eq_packWord rfl, fun e he => exec_nonce_of_some he, fun hc ha hw hk => ?accepted,
    fun hc ha hw hk => ?refused, fun hc ha => ?silent⟩
  case accepted => exact (nonce_draws rd hc ha).turn_of_accepted (awaits_first hw) hk
  case refused => exact (nonce_draws rd hc ha).turn_of_refused (awaits_first hw) hk
  case silent => rw [exec_nonce_of_none hc, nonceTurn_of_silent ha]

/-- Settles O21: the turns of the loop, of which none but the last accepts its candidate. -/
theorem nonceLoop : Obligations.NonceLoop := by
  unfold Obligations.NonceLoop
  intro s rd rz j cand hc ha hw hno
  have hs : s.work.ratcheting = false := by rw [hw]; rfl
  exact ⟨(nonce_draws rd hc ha).turns_of_accepted hs hno, (nonce_draws rd hc ha).turns_of_refused hs hno⟩

/-! ### Digests with one residue (R275, R278) -/

section
variable {h : Val → List Byte → Val} {d z z' : Val}

/-- The generator reads the digest through `z'` alone (R276). -/
theorem seedRatchet_congr (hz : reduceDigest z = reduceDigest z') : seedRatchet h d z = seedRatchet h d z' := by
  rw [seedRatchet, seedRatchet, hz]

theorem turnCandidate_congr (hz : reduceDigest z = reduceDigest z') (w : Work) :
    turnCandidate h d z w = turnCandidate h d z' w := by
  rw [turnCandidate, turnCandidate, turnStart, turnStart, seedRatchet_congr hz]

theorem ratchetAt_congr (hz : reduceDigest z = reduceDigest z') (n : Nat) :
    ratchetAt h d z n = ratchetAt h d z' n := by
  induction n with
  | zero => rw [ratchetAt, ratchetAt, seedRatchet_congr hz]
  | succ n ih => rw [ratchetAt, ratchetAt, ih]

/-- Of two digests that differ by `N`, the smaller is below `N` and the larger above, unless the smaller is 0. -/
theorem reduceDigest_eq_of_add_N (hz : 1 ≤ z.toNat) (hz' : z'.toNat = z.toNat + Config.N) :
    reduceDigest z = reduceDigest z' := by
  have hlt := z'.isLt
  have hN := Config.two_N
  have hlow : ¬ z.toNat > Config.N := by omega
  have hhigh : z'.toNat > Config.N := by omega
  rw [reduceDigest, reduceDigest, if_neg hlow, if_pos hhigh, hz', Nat.add_sub_cancel, BitVec.ofNat_toNat,
    BitVec.setWidth_eq]

end

/-- A turn of the nonce loop in a state with another register, on a digest with the same residue: no use is made of a
candidate, or the same use in both. -/
theorem nonceTurn_writeReg (s : State) {z z' : Val} (hz : reduceDigest z = reduceDigest z') (i : RegIdx) (v : ValReg)
    (use : Val → State → State) :
    ((nonceTurn s z use).runState = s.runState ∧
      nonceTurn (s.writeReg i v) z' use = (nonceTurn s z use).writeReg i v) ∨
    ∃ k q, nonceTurn s z use = use k (s.logRequests q) ∧
      nonceTurn (s.writeReg i v) z' use = use k ((s.writeReg i v).logRequests q) := by
  have hcand : turnCandidate (s.writeReg i v).hmac256 s.key.secret z' s.work =
      turnCandidate s.hmac256 s.key.secret z s.work := (turnCandidate_congr hz s.work).symm
  rcases nonceTurn_cases s z use with ⟨ha, hn⟩ | ⟨ha, hk, hn⟩ | ⟨ha, hk, hn⟩
  · exact .inl ⟨by rw [hn], by rw [hn]; exact nonceTurn_of_silent ha⟩
  · refine .inl ⟨by rw [hn]; rfl, ?_⟩
    rw [hn, nonceTurn]
    simp only [State.writeReg_env, State.writeReg_key, State.writeReg_work, hcand, ha, hk, if_true]
    rfl
  · refine .inr ⟨_, _, hn, ?_⟩
    rw [nonceTurn]
    simp only [State.writeReg_env, State.writeReg_key, State.writeReg_work, hcand, ha, hk, if_true]

/-- Two next states of a turn of NONCE that starts in `s` on two digests: the digest register apart they are the same,
and a nonce that is written is the same. -/
structure SameNonce (rd rz : RegIdx) (s t u : State) : Prop where
  block : u = { t with regs := u.regs }
  reg : ∀ k, k ≠ rz → u.reg k = t.reg k
  nonce : s.runState = .busy → t.runState = .idle → u.reg rd = t.reg rd

theorem sameNonce_of_unfinished {rd rz : RegIdx} {s t : State} (h : s.runState = .busy → t.runState ≠ .idle)
    (v : ValReg) : SameNonce rd rz s t (t.writeReg rz v) where
  block := rfl
  reg _ hk := State.reg_writeReg_ne t hk.symm v
  nonce hb hi := absurd hi (h hb)

theorem sameNonce_of_written (rd rz : RegIdx) (s : State) (v x : ValReg) (q : List HmacRequest) :
    SameNonce rd rz s ((s.logRequests q).writeReg rd x).finish
      (((s.writeReg rz v).logRequests q).writeReg rd x).finish where
  block := rfl
  reg _ hk := by simp [State.reg_writeReg, hk.symm]
  nonce _ _ := by simp

theorem exec_nonce_sameNonce {s : State} {z z' : Val} (rd : RegIdx) {rz : RegIdx}
    (hz : reduceDigest z = reduceDigest z') (hreg : s.reg rz = ⟨.int, z⟩) :
    ∃ t u, exec (.nonce rd rz) s = .next t ∧ exec (.nonce rd rz) (s.writeReg rz ⟨.int, z'⟩) = .next u ∧
      SameNonce rd rz s t u := by
  have hchecks : nonceChecks (s.writeReg rz ⟨.int, z'⟩) rz = nonceChecks s rz := by
    simp [nonceChecks, nonempty, integer, hreg]
  cases hc : nonceChecks s rz with
  | some e =>
    have hrun : (s.raiseError e).runState ≠ .idle := nofun
    exact ⟨_, _, exec_nonce_of_some hc, exec_nonce_of_some (hchecks.trans hc),
      sameNonce_of_unfinished (fun _ => hrun) _⟩
  | none =>
    refine ⟨_, _, exec_nonce_of_none hc, exec_nonce_of_none (hchecks.trans hc), ?_⟩
    rw [State.reg_writeReg_same, hreg]
    rcases nonceTurn_writeReg s hz rz ⟨.int, z'⟩ fun k t => (t.writeReg rd ⟨.int, k⟩).finish with
      ⟨hrun, hu⟩ | ⟨k, q, ht, hu⟩
    · rw [hu]
      exact sameNonce_of_unfinished (fun hb => by rw [hrun, hb]; nofun) _
    · rw [ht, hu]
      exact sameNonce_of_written rd rz s _ _ q

/-- Settles O22: the generator reads the residue, and the digest register is read by nothing else. -/
theorem nonceOfReducedDigest : Obligations.NonceOfReducedDigest := by
  unfold Obligations.NonceOfReducedDigest
  intro z z' h1 hN
  have hz := reduceDigest_eq_of_add_N h1 hN
  refine ⟨fun h d => ⟨turnCandidate_congr hz, ratchetAt_congr hz⟩, fun s rd rz hreg => ?_⟩
  obtain ⟨t, u, ht, hu, hblock, hregs, hnonce⟩ := exec_nonce_sameNonce rd hz hreg
  exact ⟨t, u, ht, hu, hblock, hregs, hnonce⟩

end Sys2Proof.Proofs
end

section
/-! Signatures (45_ecdsa.md R285, R286, R290 to R292): the command SIGN, the ranges of what NONCE and SIGN write (R279,
R285, R286), and that a signature verifies. -/

namespace Sys2Proof.Proofs

open Sys2Proof Sys2Proof.Machine Sys2Proof.Spec

-- One declaration after another, so that the check of the whole text stays within its memory limit.
set_option Elab.async false

/-! ### The signature (R285) -/

theorem halfN_eq : Config.halfN = Config.N / 2 := by decide

theorem signatureOf_eq_signature (z d k : Nat) : signatureOf z d k = signature z d k := by
  simp only [signatureOf, signature, signS, lowS, invMod_N_eq, halfN_eq, Nat.mul_mod_mod]

theorem signS_lt (z r d k : Nat) : signS z r d k < Config.N := Nat.mod_lt _ Config.N_pos

/-- The lower of `s` and `N - s` (R286); `N` is odd. -/
theorem lowS_le {s : Nat} (hs : s < Config.N) : lowS s ≤ Config.N / 2 := by
  have hodd : Config.N % 2 = 1 := by decide
  rw [lowS, halfN_eq]
  split <;> omega

/-- The abscissa of a point value with reduced coordinates, 0 for the identity. -/
theorem xCoord_lt {A : Point} (h : A.Reduced) : A.xCoord < Config.P := by
  cases A with
  | identity => exact Config.P_pos
  | affine x y => exact h.1

theorem signature_snd (z d k : Nat) : (signature z d k).2 = lowS (signS z (signature z d k).1 d k) := by
  simp only [signature]

theorem signature_fst_lt (z d k : Nat) : (signature z d k).1 < Config.P :=
  xCoord_lt (scalarMul_reduced k basePoint_reduced)

theorem signature_snd_le (z d k : Nat) : (signature z d k).2 ≤ Config.N / 2 := by
  rw [signature_snd]
  exact lowS_le (signS_lt _ _ _ _)

/-! ### SIGN (R285) -/

/-- What an accepted nonce `k` writes. -/
def signed (s : State) (rr rs rz : RegIdx) (t : State) (k : Val) : State :=
  setReg (setReg t rr .int (signatureOf (num s rz) s.key.secret.toNat k.toNat).1) rs .int
    (signatureOf (num s rz) s.key.secret.toNat k.toNat).2

section
variable {s : State} {rr rs rz : RegIdx}

theorem wellFormed_sign (h : rr ≠ rs) (rz : RegIdx) : (Instr.sign rr rs rz).wellFormed = true := decide_eq_true h

theorem firstFailing_sign (h : rr ≠ rs) (s : State) (rz : RegIdx) :
    firstFailing (legalWord (.sign rr rs rz) :: keyLoaded s :: intOperand 3 rz s) = signChecks s rz := by
  rw [firstFailing_legalWord (wellFormed_sign h rz)]
  simp [intOperand, signChecks]

theorem exec_sign_of_none (hne : rr ≠ rs) (h : signChecks s rz = none) :
    exec (.sign rr rs rz) s =
      .next (nonceTurn s (s.reg rz).val fun k t => (signed s rr rs rz t k).finish) := by
  simp only [signed, signatureOf_eq_signature]
  exact guarded_of_none ((firstFailing_sign hne s rz).trans h)

theorem exec_sign_of_some (hne : rr ≠ rs) {e : ErrorRecord} (h : signChecks s rz = some e) :
    exec (.sign rr rs rz) s = .next (s.raiseError e) :=
  guarded_of_some ((firstFailing_sign hne s rz).trans h)

theorem sign_draws (hne : rr ≠ rs) (hc : signChecks s rz = none) (ha : s.env.hmac.answering = true) :
    DrawingCommand (.sign rr rs rz) s (s.reg rz).val (signed s rr rs rz) where
  answering := ha
  turn q w := ⟨_, exec_sign_of_none (s := inTurn s q w) hne hc, fun _ _ => rfl⟩

/-- Equal destinations make the term no legal command (R97). -/
theorem decode_ne_sign_self (c : Word) (rs rz : RegIdx) : decode c ≠ .ok (.sign rs rs rz) := by
  intro h
  obtain ⟨hwf, -⟩ := decode_eq_ok_iff.mp h
  exact absurd rfl (of_decide_eq_true hwf)

theorem exec_sign_self (s : State) (rs rz : RegIdx) :
    exec (.sign rs rs rz) s = .next (s.raiseError ⟨.illegalCommand, 0⟩) := by
  refine guarded_of_some ?_
  simp [firstFailing_cons, legalWord, Instr.wellFormed, signDestsLegal]

end

/-- Settles O23: the first turn and the later turns of the loop, as for NONCE; only the write is another. -/
theorem signCommand : Obligations.SignCommand := by
  unfold Obligations.SignCommand
  intro s rr rs rz cand write
  refine ⟨?same, fun hne => ⟨decode_eq_ok_iff_word word_eq_packWord (wellFormed_sign hne rz),
    fun e he => exec_sign_of_some hne he, fun hc ha hw hk => ?accepted, fun hc ha hw hk => ?refused,
    fun hc ha => ?silent, fun j hc ha hw hno => ?loop⟩⟩
  case same =>
    rintro rfl
    exact ⟨fun c => decode_ne_sign_self c rr rz, exec_sign_self s rr rz⟩
  case accepted => exact (sign_draws hne hc ha).turn_of_accepted (awaits_first hw) hk
  case refused => exact (sign_draws hne hc ha).turn_of_refused (awaits_first hw) hk
  case silent => rw [exec_sign_of_none hne hc, nonceTurn_of_silent ha]
  case loop =>
    have hs : s.work.ratcheting = false := by rw [hw]; rfl
    exact ⟨(sign_draws hne hc ha).turns_of_accepted hs hno, (sign_draws hne hc ha).turns_of_refused hs hno⟩

/-! ### Ranges (R279, R285, R286) -/

/-- A command that draws a nonce goes from BUSY to IDLE only by the use of an accepted candidate. -/
theorem accepted_of_idle {cs : List Check} {s t : State} {z : Val} {use : Val → State → State}
    (h : guarded cs s (nonceTurn s z use) = .next t) (hb : s.runState = .busy) (hi : t.runState = .idle) :
    firstFailing cs = none ∧ ∃ k u, Accepted k ∧ t = use k u := by
  rcases guarded_next h with ⟨hc, rfl⟩ | ⟨e, -, rfl⟩
  · refine ⟨hc, ?_⟩
    rcases nonceTurn_cases s z use with ⟨-, hn⟩ | ⟨-, -, hn⟩ | ⟨-, hk, hn⟩
    · rw [hn, hb] at hi
      cases hi
    · rw [hn, show (s.keepRatchet _).runState = s.runState from rfl, hb] at hi
      cases hi
    · exact ⟨_, _, (nonceAccepted_eq_true_iff _).mp hk, hn⟩
  · cases hi

/-- Settles O24: an accepted candidate is in range, and so is the signature it makes. -/
theorem nonceAndSignatureRanges : Obligations.NonceAndSignatureRanges := by
  unfold Obligations.NonceAndSignatureRanges
  refine ⟨fun s t rd rz hb h hi => ?nonce, fun s t rr rs rz hb h hi => ?sign⟩
  case nonce =>
    obtain ⟨-, k, u, ⟨h1, hN⟩, rfl⟩ := accepted_of_idle h hb hi
    simp only [State.finish_reg, State.reg_writeReg_same]
    exact ⟨trivial, h1, hN⟩
  case sign =>
    obtain ⟨hc, k, u, -, rfl⟩ := accepted_of_idle h hb hi
    have hne : rr ≠ rs := of_decide_eq_true (holds_of_mem hc List.mem_cons_self)
    have hr := signature_fst_lt (s.valOf rz) s.key.secret.toNat k.toNat
    have hs := signature_snd_le (s.valOf rz) s.key.secret.toNat k.toNat
    simp only [State.finish_reg, State.reg_writeReg_same, State.reg_writeReg_ne _ hne.symm]
    have hrP : (signature (s.valOf rz) s.key.secret.toNat k.toNat).1 < 2 ^ 256 := hr.trans Config.P_lt
    have hsN : (signature (s.valOf rz) s.key.secret.toNat k.toNat).2 < 2 ^ 256 :=
      (hs.trans (Nat.div_le_self _ _)).trans_lt Config.N_lt
    simp only [tagged]
    rw [toNat_ofNat_of_lt hrP, toNat_ofNat_of_lt hsN]
    exact ⟨trivial, trivial, hr, hs⟩

end Sys2Proof.Proofs
end

section
/-! That a signature verifies under the public point of its key (45_ecdsa.md R291, R292): the total of Verify is the
point of the nonce, or its opposite, which has the same abscissa. -/

namespace Sys2Proof.Proofs

open Sys2Proof Sys2Proof.Machine Sys2Proof.Spec

-- One declaration after another, so that the check of the whole text stays within its memory limit.
set_option Elab.async false

/-! ### Multiples in the group of order `N` (R242) -/

section
variable [Fact Config.P.Prime] {a b : Nat}

/-- A scalar counts as an element of the field of `N`. -/
theorem nsmul_eq_of_cast (h : (a : ZMod Config.N) = b) (Q : groupCurve.Point) : a • Q = b • Q :=
  nsmul_eq_nsmul_iff_modEq.mpr
    (((ZMod.natCast_eq_natCast_iff a b Config.N).mp h).of_dvd (addOrderOf_dvd_of_nsmul_eq_zero (order_nsmul Q)))

theorem nsmul_eq_neg_of_cast (h : (a : ZMod Config.N) = -b) (Q : groupCurve.Point) : a • Q = -(b • Q) := by
  have hsum : ((a + b : Nat) : ZMod Config.N) = (0 : Nat) := by
    rw [Nat.cast_add, h, neg_add_cancel, Nat.cast_zero]
  refine eq_neg_of_add_eq_zero_left ?_
  rw [← add_nsmul, nsmul_eq_of_cast hsum, zero_nsmul]

end

/-- Nonces are no multiples of the order, so that the point of a nonce is affine (R279). -/
theorem scalarMul_basePoint_affine {k : Nat} (h1 : 1 ≤ k) (hN : k < Config.N) :
    ∃ x y, scalarMul k basePoint = .affine x y := by
  have := primeP
  obtain ⟨G, hG⟩ := basePoint_standsFor
  have hkG := scalarMul_standsFor_nsmul k hG
  cases hA : scalarMul k basePoint with
  | affine x y => exact ⟨x, y, rfl⟩
  | identity =>
    exfalso
    rw [hA] at hkG
    have hG0 : G ≠ 0 := by
      obtain ⟨-, -, hn, rfl⟩ := hG
      exact WeierstrassCurve.Affine.Point.some_ne_zero hn
    have := Fact.mk Config.prime_N
    have hdvd := addOrderOf_dvd_of_nsmul_eq_zero hkG
    rw [addOrderOf_eq_prime (order_nsmul G) hG0] at hdvd
    exact absurd (Nat.le_of_dvd h1 hdvd) (by omega)

/-! ### The scalars of Sign and Verify in the field of `N` (R285, R290) -/

theorem cast_invMod_N (a : Nat) : ((invMod Config.N a : Nat) : ZMod Config.N) = (a : ZMod Config.N)⁻¹ :=
  cast_invMod .fn a

theorem cast_ne_zero_N {a : Nat} (h0 : a ≠ 0) (hN : a < Config.N) : (a : ZMod Config.N) ≠ 0 := by
  intro h
  exact h0 (residue_inj hN Config.N_pos (h.trans Nat.cast_zero.symm))

theorem cast_lowS {s : Nat} (h : s < Config.N) :
    (lowS s : ZMod Config.N) = s ∨ (lowS s : ZMod Config.N) = -s := by
  unfold lowS
  split
  · right
    rw [Nat.cast_sub h.le, ZMod.natCast_self, zero_sub]
  · exact .inl rfl

theorem cast_signS_mul {z r d k : Nat} (hk : (k : ZMod Config.N) ≠ 0) :
    (signS z r d k : ZMod Config.N) * k = z + r * d := by
  have := Fact.mk Config.prime_N
  rw [signS, cast_mod, Nat.cast_mul, cast_invMod_N, inv_mul_cancel_right₀ hk, Nat.cast_add, Nat.cast_mul]

/-- The low `s` times the nonce is the sum of R285, up to the sign. -/
theorem cast_signature_mul {z d k : Nat} (hk : (k : ZMod Config.N) ≠ 0) :
    ((signature z d k).2 : ZMod Config.N) * k = z + (signature z d k).1 * d ∨
      ((signature z d k).2 : ZMod Config.N) * k = -(z + (signature z d k).1 * d) := by
  rw [signature_snd, ← cast_signS_mul hk, ← neg_mul]
  exact (cast_lowS (signS_lt _ _ _ _)).imp (congrArg (· * _)) (congrArg (· * _))

/-! ### Verify in the group (R290, R292) -/

section
variable {u v z r s d k x y : Nat}

/-- A sum of multiples of `G` that comes to `k` or its opposite has the abscissa of the point of `k`. -/
theorem add_multiples_eq (hxy : scalarMul k basePoint = .affine x y)
    (h : ((u + v * d : Nat) : ZMod Config.N) = k ∨ ((u + v * d : Nat) : ZMod Config.N) = -k) :
    ∃ y', (scalarMul u basePoint).add (scalarMul v (scalarMul d basePoint)) = .affine x y' := by
  have := primeP
  obtain ⟨G, hG⟩ := basePoint_standsFor
  have hpoint := scalarMul_standsFor_nsmul k hG
  have hsum := Point.add_standsFor (scalarMul_standsFor_nsmul u hG)
    (scalarMul_standsFor_nsmul v (scalarMul_standsFor_nsmul d hG))
  rw [hxy] at hpoint
  rw [← mul_nsmul', ← add_nsmul] at hsum
  rcases h with h | h
  · rw [nsmul_eq_of_cast h] at hsum
    exact ⟨y, Point.standsFor_inj hsum hpoint⟩
  · rw [nsmul_eq_neg_of_cast h] at hsum
    exact ⟨Config.P - y, Point.standsFor_inj hsum (affine_P_sub_standsFor hpoint)⟩

/-- The multiple of `G` that Verify comes to. -/
theorem cast_verify_multiple (z r s d : Nat) :
    ((z * invMod Config.N (s % Config.N) % Config.N + r * invMod Config.N (s % Config.N) % Config.N * d : Nat) :
      ZMod Config.N) = (z + r * d) * (s : ZMod Config.N)⁻¹ := by
  rw [Nat.cast_add, Nat.cast_mul, cast_mod, cast_mod, Nat.cast_mul, Nat.cast_mul, cast_invMod_N, cast_mod]
  ring

/-- With `s·k = ±(z + r·d)` that multiple is `±k`. -/
theorem verifyTotal_eq (hxy : scalarMul k basePoint = .affine x y) (hs : (s : ZMod Config.N) ≠ 0)
    (h : (s : ZMod Config.N) * k = z + r * d ∨ (s : ZMod Config.N) * k = -(z + r * d)) :
    ∃ y', verifyTotal z r s (scalarMul d basePoint) = .affine x y' := by
  have := Fact.mk Config.prime_N
  simp only [verifyTotal]
  refine add_multiples_eq hxy ?_
  rw [cast_verify_multiple]
  rcases h with h | h
  · exact .inl (by rw [← h, mul_right_comm, mul_inv_cancel₀ hs, one_mul])
  · exact .inr (by rw [← neg_eq_iff_eq_neg.mpr h, neg_mul, mul_right_comm, mul_inv_cancel₀ hs, one_mul])

end

/-- Settles O26: the total has the abscissa of the point of the nonce, which is the `r` of the signature. -/
theorem signatureVerifies : Obligations.SignatureVerifies := by
  unfold Obligations.SignatureVerifies
  intro z d k _ _ h1 hN hs
  rw [signatureOf_eq_signature] at hs ⊢
  obtain ⟨x, y, hxy⟩ := scalarMul_basePoint_affine h1 hN
  have hr : (signature z d k).1 = x := by simp only [signature, hxy, Point.xCoord]
  have hlt : (signature z d k).2 < Config.N := (signature_snd_le z d k).trans_lt (by decide)
  have hmul := cast_signature_mul (z := z) (d := d) (cast_ne_zero_N (Nat.one_le_iff_ne_zero.mp h1) hN)
  rw [hr] at hmul
  rw [verifies_iff, hr]
  exact verifyTotal_eq hxy (cast_ne_zero_N hs hlt) hmul

end Sys2Proof.Proofs
end

section
/-! The varint of the host software (49_host_encodings.md R330, R331): its marked forms, little-endian bytes read back, and
the round trip. -/

namespace Sys2Proof.Proofs

open Sys2Proof Sys2Proof.Machine

/-! ### Little-endian bytes -/

@[simp] theorem length_littleEndian (n v : Nat) : (littleEndian n v).length = n := by
  simp [littleEndian]

/-- The first byte is the least significant one, and the rest are the bytes of the quotient. -/
theorem littleEndian_succ (n v : Nat) :
    littleEndian (n + 1) v = BitVec.ofNat 8 v :: littleEndian n (v / 256) := by
  simp [littleEndian, List.range_succ_eq_map, Function.comp_def, Nat.pow_succ', Nat.div_div_eq_div_mul]

theorem intOfLittleEndian_littleEndian (n v : Nat) : intOfLittleEndian (littleEndian n v) = v % 256 ^ n := by
  induction n generalizing v with
  | zero => simp [littleEndian, intOfLittleEndian, Nat.mod_one]
  | succ n ih =>
    rw [littleEndian_succ, intOfLittleEndian, ih, BitVec.toNat_ofNat, Nat.pow_succ' (m := 256), Nat.mod_mul]

/-! ### The forms of a varint -/

/-- The markers of R330 with the number of bytes that follow each. -/
def varintMarkers : List (Byte × Nat) := [(0xFD#8, 2), (0xFE#8, 4), (0xFF#8, 8)]

/-- What the encoder answers for an integer in range: the integer itself as one byte, or a marker and as many bytes as it
announces, which the integer fits in. -/
theorem varintEncode_cases {v : Nat} (hv : v < 2 ^ 64) :
    (v < 0xFD ∧ varintEncode v = .ok [BitVec.ofNat 8 v]) ∨
    ∃ m n, (m, n) ∈ varintMarkers ∧ v < 256 ^ n ∧ varintEncode v = .ok (m :: littleEndian n v) := by
  unfold varintEncode
  split_ifs with h1 h2 h3
  · exact .inl ⟨h1, rfl⟩
  · exact .inr ⟨0xFD#8, 2, by decide, h2, rfl⟩
  · exact .inr ⟨0xFE#8, 4, by decide, h3, rfl⟩
  · exact .inr ⟨0xFF#8, 8, by decide, hv, rfl⟩

theorem varintEncode_of_ge {v : Nat} (hv : 2 ^ 64 ≤ v) : varintEncode v = .error .rangeError := by
  rw [varintEncode, if_neg (by omega), if_neg (by omega), if_neg (by omega), if_neg (by omega)]

/-- A first byte below `0xFD` is the integer. -/
theorem varintDecode_of_lt {h : Byte} (hh : h.toNat < 0xFD) (t : List Byte) :
    varintDecode (h :: t) = .ok (h.toNat, t) :=
  if_pos hh

/-- After a marker the decoder reads the bytes it announces, least significant first. -/
theorem varintDecode_of_marker {m : Byte} {n : Nat} (hm : (m, n) ∈ varintMarkers) (t : List Byte) :
    varintDecode (m :: t) =
      if t.length < n then .error .formatError else .ok (intOfLittleEndian (t.take n), t.drop n) := by
  simp only [varintMarkers, List.mem_cons, Prod.mk.injEq, List.not_mem_nil, or_false] at hm
  rcases hm with ⟨rfl, rfl⟩ | ⟨rfl, rfl⟩ | ⟨rfl, rfl⟩ <;> rfl

theorem varintDecode_marker_append {m : Byte} {bytes : List Byte} (hm : (m, bytes.length) ∈ varintMarkers)
    (rest : List Byte) : varintDecode (m :: (bytes ++ rest)) = .ok (intOfLittleEndian bytes, rest) := by
  have henough : ¬ (bytes ++ rest).length < bytes.length := by simp
  rw [varintDecode_of_marker hm, if_neg henough, List.take_left, List.drop_left]

theorem markedLength_mem {m : Byte} {n : Nat} (hm : (m, n) ∈ varintMarkers) : n + 1 ∈ [1, 3, 5, 9] := by
  have hall : ∀ p ∈ varintMarkers, p.2 + 1 ∈ [1, 3, 5, 9] := by decide
  exact hall _ hm

/-- Settles O60: the one-byte form is its own value, and a marker's bytes give back an integer that fits in them. -/
theorem varintRoundTrip : Obligations.VarintRoundTrip := by
  unfold Obligations.VarintRoundTrip
  intro v rest
  refine ⟨fun hv => ?_, varintEncode_of_ge⟩
  obtain ⟨hlt, henc⟩ | ⟨m, n, hm, hfit, henc⟩ := varintEncode_cases hv
  · have hbyte : (BitVec.ofNat 8 v).toNat = v := Nat.mod_eq_of_lt (by omega)
    refine ⟨_, henc, by simp, ?_⟩
    rw [List.singleton_append, varintDecode_of_lt (hbyte.symm ▸ hlt), hbyte]
  · refine ⟨_, henc, ?_, ?_⟩
    · rw [List.length_cons, length_littleEndian]
      exact markedLength_mem hm
    · rw [List.cons_append, varintDecode_marker_append (by rwa [length_littleEndian]), intOfLittleEndian_littleEndian,
        Nat.mod_eq_of_lt hfit]

end Sys2Proof.Proofs
end

section
/-! Errors are precise (60_exceptions.md R340, R350, R354), and the interrupt line is a level (R360). -/

namespace Sys2Proof.Proofs

open Sys2Proof Sys2Proof.Machine Sys2Proof.Spec

/-! ### The errors a command reports -/

/-- The record a check leaves in ERR when it fails (R350, R353). -/
def failureRecord (c : Check) : ErrorRecord := ⟨c.kind, c.info⟩

/-- The command `i` may end with the record `e`: it is of its row (R354), or the term is illegal (R343). -/
def MayReport (i : Instr) (e : ErrorRecord) : Prop :=
  e ∈ errorRow i ∨ (i.wellFormed = false ∧ e = ⟨.illegalCommand, 0⟩)

/-- Whichever of the checks `cs` fails first, the command `i` may end with its record. -/
def ChecksReport (i : Instr) (cs : List Check) : Prop := ∀ e, firstFailing cs = some e → MayReport i e

/-- The checks of a command, in some order, are its row of R354. -/
theorem checksReport_of_row {i : Instr} {cs : List Check} (h : (cs.map failureRecord).Perm (errorRow i)) :
    ChecksReport i cs := by
  intro e he
  obtain ⟨c, hc, -, rfl⟩ := firstFailing_eq_some he
  exact .inl (h.subset (List.mem_map_of_mem hc))

/-- The check of the term itself comes first, and it alone reports IllegalCommand(0) (R343, R346). -/
theorem checksReport_legalWord {i : Instr} {cs : List Check} (h : ChecksReport i cs) :
    ChecksReport i (legalWord i :: cs) := by
  intro e he
  cases hi : i.wellFormed with
  | true => exact h e (by rwa [firstFailing_legalWord hi] at he)
  | false =>
    obtain rfl : e = ⟨.illegalCommand, 0⟩ := by simpa [firstFailing_cons, legalWord, hi, eq_comm] using he
    exact .inr ⟨hi, rfl⟩

/-! ### Precise errors -/

/-- If `t` is in ERROR, it is the error entry of `s` with a record that the command `i` may report (R350). -/
def Precise (i : Instr) (s t : State) : Prop :=
  t.runState = .error → ∃ e, t = errored s e ∧ MayReport i e

/-- Error entry of the first failing check is the only way of a checked command into ERROR. -/
theorem precise_of_guarded {i : Instr} {cs : List Check} {s t u : State} (hg : guarded cs s u = .next t)
    (hcs : ChecksReport i cs) (hu : u.runState ≠ .error) : Precise i s t := by
  intro ht
  rcases guarded_next hg with ⟨-, rfl⟩ | ⟨e, he, rfl⟩
  · exact absurd ht hu
  · exact ⟨e, rfl, hcs e he⟩

/-- A turn of the nonce loop reports nothing: it completes the command or leaves it BUSY (R277, R283). -/
theorem nonceTurn_ne_error {s : State} (hs : s.runState = .busy) (z : Val) {use : Val → State → State}
    (hu : ∀ k v, (use k v).runState = .idle) : (nonceTurn s z use).runState ≠ .error := by
  rcases nonceTurn_cases s z use with ⟨-, hn⟩ | ⟨-, -, hn⟩ | ⟨-, -, hn⟩ <;> rw [hn]
  · rw [hs]; nofun
  · rw [show (s.keepRatchet _).runState = .busy from hs]; nofun
  · rw [hu]; nofun

/-- The rows of R354 name the checks of the commands in the order they are made, but for the check of the term itself,
which no row names, and for NoKey, which is checked first and named last. -/
theorem exec_precise {i : Instr} {s t : State} (hs : s.runState = .busy) (h : exec i s = .next t) : Precise i s t := by
  cases i
  case nop | ldi | clr | pclr | pinf | keyclr =>
    exact precise_of_guarded (cs := []) h (checksReport_of_row .nil) nofun
  case ldc =>
    exact precise_of_guarded h (checksReport_legalWord (checksReport_of_row .nil)) nofun
  case nonce =>
    exact precise_of_guarded h (checksReport_of_row (List.perm_append_singleton _ _).symm)
      (nonceTurn_ne_error hs _ fun _ _ => rfl)
  case sign =>
    exact precise_of_guarded h
      (checksReport_legalWord (checksReport_of_row (List.perm_append_singleton _ _).symm))
      (nonceTurn_ne_error hs _ fun _ _ => rfl)
  all_goals exact precise_of_guarded h (checksReport_of_row (.refl _)) nofun

/-- Settles O27: a command reaches ERROR by error entry alone, with a record of one of its checks. -/
theorem errorsArePrecise : Obligations.ErrorsArePrecise := by
  unfold Obligations.ErrorsArePrecise
  exact fun _ _ _ hs h => exec_precise hs h

/-! ### The interrupt line -/

theorem irq_eq_true_iff (s : State) :
    s.irq = true ↔ (s.ctrl.ieDone = true ∧ s.done = true) ∨ (s.ctrl.ieErr = true ∧ s.runState = .error) := by
  simp [State.irq]

theorem irq_eq_false_of_quiet {s : State} (hd : s.done = false) (hr : s.runState ≠ .error) : s.irq = false := by
  simp [State.irq, hd, hr]

theorem irq_eq_false_of_disabled {s : State} (h : s.ctrl = ⟨false, false⟩) : s.irq = false := by
  simp [State.irq, h]

/-- An acknowledgement with bits 0 and 1 set takes DONE and the error away (R44, R358). -/
theorem irq_writeAck (s : State) {d : Word} (hdone : d.getLsbD 0 = true) (herr : d.getLsbD 1 = true) :
    (s.writeAck d).irq = false := by
  rw [writeAck_eq]
  apply irq_eq_false_of_quiet
  · simp [hdone]
  · by_cases hr : s.runState = .error <;> simp [herr, hr]

theorem hostWrite_ctrl (s : State) (d : Word) : s.hostWrite 0x004 4 d = s.writeCtrl d :=
  hostWrite_control s (by decide) (by decide) d

theorem hostWrite_ack (s : State) (d : Word) : s.hostWrite 0x014 4 d = s.writeAck d :=
  hostWrite_control s (by decide) (by decide) d

theorem hostWrite_cmd_of_idle {s : State} (hi : s.runState = .idle) (c : Word) : s.hostWrite 0x018 4 c = s.accept c :=
  (hostWrite_control s (by decide) (by decide) c).trans (if_pos hi)

/-- Settles O44: the formula, and each event by what it leaves of DONE, STATE and the enables. -/
theorem interruptLevel : Obligations.InterruptLevel := by
  unfold Obligations.InterruptLevel
  intro s
  refine ⟨irq_eq_true_iff s, ?ack, ?enables, fun hi c => ?accepted, irq_eq_false_of_disabled rfl⟩
  case ack =>
    rw [hostWrite_ack]
    exact irq_writeAck s (by decide) (by decide)
  case enables =>
    rw [hostWrite_ctrl]
    exact irq_eq_false_of_disabled rfl
  case accepted =>
    rw [hostWrite_cmd_of_idle hi]
    exact irq_eq_false_of_quiet rfl nofun

end Sys2Proof.Proofs
end
